-- ==== Sys2Proof/Word.lean ====
section
/-! DEFINITION. The widths of the block's values (00_scope.md rules R6 and R7): every value is an unsigned bit vector. -/

namespace Sys2Proof

/-- The source's word: 16 bits (R13; 90_conflicts.md C2). -/
abbrev Word := BitVec 16

/-- A config dword, a ConfigAddress, a port value: 32 bits (R13). -/
abbrev Dword := BitVec 32

/-- A command word: 48 bits (R70). -/
abbrev CmdWord := BitVec 48

/-- An I/O port number: IO_PORT_WIDTH = 16 bits (R6, R50). -/
abbrev IoPort := BitVec 16

/-- BUS_BITS = 8 (R6). -/
abbrev Bus := BitVec 8

/-- SLOT_BITS = 5 (R6). -/
abbrev Slot := BitVec 5

/-- FUNC_BITS = 3 (R6). -/
abbrev Func := BitVec 3

/-- OFFSET_BITS = 8 (R6): all eight bits are kept (R71). -/
abbrev Offset := BitVec 8

end Sys2Proof
end

