-- ==== Sys2Proof/Config.lean ====
section
/-! DEFINITION. What is fixed for the machine (00_scope.md rule R6), the events of the port history (20_memory.md
rule R55) and the free values: opaque constants without a body, for what the spec leaves to the port target. -/

namespace Sys2Proof

/-- Who performs a port access (R12, R55): the block, or another port master, told apart by a number. -/
inductive PortAgent where
  | block
  | other (master : Nat)
  deriving DecidableEq, Repr

/-- The kind of a port access (R55). -/
inductive AccessKind where
  | read
  | write
  deriving DecidableEq, Repr

/-- One event of the port history (R55); for a read, `value` is the port target's answer. -/
structure PortEvent where
  agent : PortAgent
  kind : AccessKind
  port : IoPort
  value : Dword
  deriving DecidableEq, Repr

namespace Config

/-- ADDR_PORT (R6, R58). -/
def addrPort : IoPort := 0xCF8#16

/-- DATA_PORT (R6, R58). -/
def dataPort : IoPort := 0xCFC#16

/-- SENTINEL (R6, R130). -/
def sentinel : Word := 0xFFFF#16

/-- PROBE_ABSENT_RESULT (R6, R131). -/
def probeAbsentResult : Dword := 0x00000000#32

/-- CONFIG_SPACE_BYTES per function (R6). -/
def configSpaceBytes : Nat := 256

/-- What an answer of the port target may depend on (R26: "may depend on the whole port history"): how many draws came
before, the port read, what the address latch holds, and the port history so far. -/
structure ReadContext where
  draw : Nat
  port : IoPort
  latch : Dword
  history : List PortEvent
  deriving DecidableEq, Repr

/-- FREE VALUE. The port target's answer to a 32-bit port read (R26, R57; U10, U12, U17): nothing constrains it. -/
opaque portAnswer : ReadContext → Dword

/-- FREE VALUE. REQ after a reset in mid-run (R30, R160; U13), by the draw counter. -/
opaque resetReq : Nat → CmdWord

/-- FREE VALUE. A after a reset in mid-run (R30, R160; U13), by the draw counter. -/
opaque resetA : Nat → Dword

/-- FREE VALUE. D after a reset in mid-run (R30, R160; U13), by the draw counter. -/
opaque resetD : Nat → Dword

/-- FREE VALUE. RESP_VALUE after a reset in mid-run (R30, R160; U13), by the draw counter. -/
opaque resetRespValue : Nat → Dword

/-- FREE VALUE. RESP_STATUS after a reset in mid-run (R30, R160; U13), by the draw counter. -/
opaque resetRespStatus : Nat → BitVec 2

/-- FREE VALUE. The address latch after a reset in mid-run (R161: "a model treats it as a draw"; U13). -/
opaque resetAddressLatch : Nat → Dword

/-- OPEN PARAMETER (R6, D24, U5): whether ENUM_BUS_BOUND is 256 or 32. -/
opaque enumBusBoundIsDeclared : Bool

/-- ENUM_BUS_BOUND ∈ {32, 256} (R6, D24): a parameter of the out-of-scope enumerator only; no rule of the block reads it. -/
def enumBusBound : Nat := if enumBusBoundIsDeclared then 256 else 32

end Config

end Sys2Proof
end

