-- ==== Sys2Proof/Machine/Flags.lean ====
section
/-! DEFINITION. The block has no flags or condition codes (10_state.md rule R27). What stands in their place: the
sentinel predicate (42_probe.md rule R130) and the response status codes (60_exceptions.md rule R141). -/

namespace Sys2Proof.Machine

/-- `isAbsent(vendor16) = (vendor16 == 0xFFFF)`, exact equality on all 16 bits (R130). -/
def isAbsent (vendor : Word) : Bool := vendor == Config.sentinel

/-- RESP_STATUS 0, OK (R141). -/
def statusOk : BitVec 2 := 0#2

/-- RESP_STATUS 1, ILLEGAL_COMMAND (R141). -/
def statusIllegalCommand : BitVec 2 := 1#2

/-- RESP_STATUS 2 and 3 are reserved and never written (R141). -/
def statusIsReserved (code : BitVec 2) : Bool := code != statusOk && code != statusIllegalCommand

end Sys2Proof.Machine
end

