-- ==== Sys2Proof/Machine/Operands.lean ====
section
/-! DEFINITION. The pure functions on operands: the ConfigAddress (40_encoder.md rule R100), the half selection
(41_transport.md rule R111), the widening (R116), the byte lanes (20_memory.md rule R52) and the data window's selection
(10_state.md rule R25). -/

namespace Sys2Proof.Machine

/-- `zext_32` of a 16-bit word (R7, R112, R116). -/
def widen (w : Word) : Dword := w.setWidth 32

/-- The ConfigAddress of (bus, slot, func, offset): the OR of R100. -/
def configAddress (bus : Bus) (slot : Slot) (func : Func) (offset : Offset) : Dword :=
  0x80000000#32
    ||| (bus.setWidth 32 <<< 16)
    ||| (slot.setWidth 32 <<< 11)
    ||| (func.setWidth 32 <<< 8)
    ||| (offset.setWidth 32 &&& 0x000000FC#32)

/-- `(dword >> ((offset & 2) * 8)) & 0xFFFF` (R111): 16 bits. -/
def halfSelect (dword : Dword) (offset : Offset) : Word :=
  ((dword >>> ((offset &&& 2#8) * 8#8)) &&& 0x0000FFFF#32).setWidth 16

/-- The byte at config offset `offset` within its dword (R52): little-endian lanes. -/
def byteLane (dword : Dword) (offset : Offset) : BitVec 8 :=
  dword.extractLsb' (8 * (offset &&& 3#8).toNat) 8

/-- A config dword as the address latch selects it (R25). -/
structure ConfigDword where
  bus : Bus
  slot : Slot
  func : Func
  /-- The register dword index, `latch[7:2]`; its bytes are at offsets `4 * index` to `4 * index + 3`. -/
  index : BitVec 6
  deriving DecidableEq, Repr

/-- The config dword that a value of the address latch selects (R24, R25). -/
def selectedDword (latch : Dword) : ConfigDword where
  bus := latch.extractLsb' 16 8
  slot := latch.extractLsb' 11 5
  func := latch.extractLsb' 8 3
  index := latch.extractLsb' 2 6

end Sys2Proof.Machine
end

