-- ==== Sys2Proof/Syntax.lean ====
section
/-! DEFINITION. The four commands (30_encoding.md rule R73), one constructor per row of the opcode table. -/

namespace Sys2Proof

/-- A command with its operands (R71, R77). CHECK_VENDOR takes function 0 and its offsets from its rule (R72). -/
inductive Instr where
  | encode (bus : Bus) (slot : Slot) (func : Func) (offset : Offset)
  | readWord (bus : Bus) (slot : Slot) (func : Func) (offset : Offset)
  | writeWord (bus : Bus) (slot : Slot) (func : Func) (offset : Offset) (data : Word)
  | checkVendor (bus : Bus) (slot : Slot)
  deriving DecidableEq, Repr

end Sys2Proof
end

