-- ==== Sys2Proof/WellFormed.lean ====
section
/-! DEFINITION. The operand ranges (00_scope.md rule R6, 30_encoding.md rule R71), as a check on a call in wide numbers
(60_exceptions.md rule R144); the operands of an `Instr` are in range by their widths. -/

namespace Sys2Proof

/-- The operands a command can have (R71). -/
inductive Operand where
  | bus
  | slot
  | func
  | offset
  | data
  deriving DecidableEq, Repr

/-- The bound of an operand's range [0, bound) (R6, R71, R144). -/
def Operand.bound : Operand → Nat
  | .bus => 256
  | .slot => 32
  | .func => 8
  | .offset => 256
  | .data => 0x10000

/-- The call of a command at an interface that takes numbers wider than the command's fields (R103, R144). -/
inductive WideCall where
  | encode (bus slot func offset : Nat)
  | readWord (bus slot func offset : Nat)
  | writeWord (bus slot func offset data : Nat)
  | checkVendor (bus slot : Nat)
  deriving DecidableEq, Repr

/-- The arguments of a call, in the order of R77's operand lists. -/
def WideCall.arguments : WideCall → List (Operand × Nat)
  | .encode b s f o => [(.bus, b), (.slot, s), (.func, f), (.offset, o)]
  | .readWord b s f o => [(.bus, b), (.slot, s), (.func, f), (.offset, o)]
  | .writeWord b s f o d => [(.bus, b), (.slot, s), (.func, f), (.offset, o), (.data, d)]
  | .checkVendor b s => [(.bus, b), (.slot, s)]

/-- Every argument is in its range (R144). -/
def WideCall.wellFormed (c : WideCall) : Bool := c.arguments.all fun p => decide (p.2 < p.1.bound)

/-- A command as a call in wide numbers. -/
def Instr.toCall : Instr → WideCall
  | .encode b s f o => .encode b.toNat s.toNat f.toNat o.toNat
  | .readWord b s f o => .readWord b.toNat s.toNat f.toNat o.toNat
  | .writeWord b s f o d => .writeWord b.toNat s.toNat f.toNat o.toNat d.toNat
  | .checkVendor b s => .checkVendor b.toNat s.toNat

/-- Every operand of the command is in its range (R71: each field is exactly as wide as its range). -/
def Instr.wellFormed (i : Instr) : Bool := i.toCall.wellFormed

end Sys2Proof
end

