-- ==== Sys2Proof/Decode.lean ====
section
/-! DEFINITION. The command word (30_encoding.md): its fields (R71, R72), the opcode rows (R73), the decoder (R74, R75),
the encoder, the pseudo-instructions (R77) and the check of a call in wide numbers (R103, R144). -/

namespace Sys2Proof

/-- `data = cmd[47:32]` (R72). -/
def dataField (w : CmdWord) : Word := w.extractLsb' 32 16

/-- `op = cmd[31:30]` (R72). -/
def opField (w : CmdWord) : BitVec 2 := w.extractLsb' 30 2

/-- `rsv = cmd[29:24]` (R71). -/
def rsvField (w : CmdWord) : BitVec 6 := w.extractLsb' 24 6

/-- `bus = cmd[23:16]` (R72). -/
def busField (w : CmdWord) : Bus := w.extractLsb' 16 8

/-- `slot = cmd[15:11]` (R72). -/
def slotField (w : CmdWord) : Slot := w.extractLsb' 11 5

/-- `func = cmd[10:8]` (R72). -/
def funcField (w : CmdWord) : Func := w.extractLsb' 8 3

/-- `offset = cmd[7:0]` (R72). -/
def offsetField (w : CmdWord) : Offset := w.extractLsb' 0 8

/-- `cmd[10:0]`, the func and offset bits that CHECK_VENDOR must leave zero (R74, R75). -/
def funcOffsetBits (w : CmdWord) : BitVec 11 := w.extractLsb' 0 11

/-- Why a word is ILLEGAL: the three checks of R74. -/
inductive IllegalWord where
  /-- A nonzero bit in `rsv`. -/
  | reservedBits
  /-- A nonzero `data` bit in a command other than WRITE_WORD. -/
  | strayData
  /-- A nonzero `func` or `offset` bit in CHECK_VENDOR. -/
  | strayProbeBits
  deriving DecidableEq, Repr

/-- What a command word decodes to (R74): a command, or ILLEGAL. -/
inductive Decoded where
  | legal (i : Instr)
  | illegal (why : IllegalWord)
  deriving DecidableEq, Repr

/-- The command that `op` selects, with the operands of its fields (R72, R73). -/
def selectCommand (w : CmdWord) : Instr :=
  if opField w = 0b00#2 then .encode (busField w) (slotField w) (funcField w) (offsetField w)
  else if opField w = 0b01#2 then .readWord (busField w) (slotField w) (funcField w) (offsetField w)
  else if opField w = 0b10#2 then
    .writeWord (busField w) (slotField w) (funcField w) (offsetField w) (dataField w)
  else .checkVendor (busField w) (slotField w)

/-- Decode, total on every 48-bit word (R74). -/
def decode (w : CmdWord) : Decoded :=
  if rsvField w ≠ 0#6 then .illegal .reservedBits
  else if opField w ≠ 0b10#2 ∧ dataField w ≠ 0#16 then .illegal .strayData
  else if opField w = 0b11#2 ∧ funcOffsetBits w ≠ 0#11 then .illegal .strayProbeBits
  else .legal (selectCommand w)

/-- A command word from its fields, `rsv` zero (R71). -/
def packWord (data : Word) (op : BitVec 2) (bus : Bus) (slot : Slot) (func : Func) (offset : Offset) : CmdWord :=
  data ++ op ++ 0#6 ++ bus ++ slot ++ func ++ offset

/-- The word of a command, from the patterns of R73. -/
def encode : Instr → CmdWord
  | .encode b s f o => packWord 0#16 0b00#2 b s f o
  | .readWord b s f o => packWord 0#16 0b01#2 b s f o
  | .writeWord b s f o d => packWord d 0b10#2 b s f o
  | .checkVendor b s => packWord 0#16 0b11#2 b s 0#3 0#8

/-- A row of the opcode map (R73): `cmd` selects it when `cmd & mask == match`. -/
structure OpcodeRow where
  mnemonic : String
  mask : CmdWord
  pattern : CmdWord
  deriving DecidableEq, Repr

/-- `cmd & mask == match` (R73). -/
def OpcodeRow.selects (row : OpcodeRow) (w : CmdWord) : Bool := w &&& row.mask == row.pattern

/-- The opcode map of R73, as its table gives it. -/
def opcodeRows : List OpcodeRow :=
  [ ⟨"ENCODE", 0xFFFFFF000000#48, 0x000000000000#48⟩,
    ⟨"READ_WORD", 0xFFFFFF000000#48, 0x000040000000#48⟩,
    ⟨"WRITE_WORD", 0x0000FF000000#48, 0x000080000000#48⟩,
    ⟨"CHECK_VENDOR", 0xFFFFFF0007FF#48, 0x0000C0000000#48⟩ ]

/-- `RDVENDOR b, s, f` is `READ_WORD b, s, f, 0x00` (R77). -/
def rdVendor (b : Bus) (s : Slot) (f : Func) : Instr := .readWord b s f 0x00#8

/-- `RDDEVICE b, s, f` is `READ_WORD b, s, f, 0x02` (R77). -/
def rdDevice (b : Bus) (s : Slot) (f : Func) : Instr := .readWord b s f 0x02#8

/-- `RDCMD b, s, f` is `READ_WORD b, s, f, 0x04` (R77). -/
def rdCmd (b : Bus) (s : Slot) (f : Func) : Instr := .readWord b s f 0x04#8

/-- `RDSTATUS b, s, f` is `READ_WORD b, s, f, 0x06` (R77). -/
def rdStatus (b : Bus) (s : Slot) (f : Func) : Instr := .readWord b s f 0x06#8

/-- `WRCMD b, s, f, d` is `WRITE_WORD b, s, f, 0x04, d` (R77). -/
def wrCmd (b : Bus) (s : Slot) (f : Func) (d : Word) : Instr := .writeWord b s f 0x04#8 d

/-- What the check of a wide call answers (R144): the command, or the offending argument. -/
inductive CheckedCall where
  | inRange (i : Instr)
  | outOfRange (arg : Operand) (value : Nat)
  deriving DecidableEq, Repr

/-- The command of a call whose arguments are all in range; used only after the check (R144), so nothing is truncated. -/
def narrowCall : WideCall → Instr
  | .encode b s f o => .encode (BitVec.ofNat 8 b) (BitVec.ofNat 5 s) (BitVec.ofNat 3 f) (BitVec.ofNat 8 o)
  | .readWord b s f o => .readWord (BitVec.ofNat 8 b) (BitVec.ofNat 5 s) (BitVec.ofNat 3 f) (BitVec.ofNat 8 o)
  | .writeWord b s f o d =>
    .writeWord (BitVec.ofNat 8 b) (BitVec.ofNat 5 s) (BitVec.ofNat 3 f) (BitVec.ofNat 8 o) (BitVec.ofNat 16 d)
  | .checkVendor b s => .checkVendor (BitVec.ofNat 8 b) (BitVec.ofNat 5 s)

/-- The check of a call in wide numbers (R103, R144): the first argument out of range, in operand order, refuses it
(DESIGN CHOICE where several are; log entry 9). -/
def checkCall (c : WideCall) : CheckedCall :=
  match c.arguments.find? (fun p => decide (p.1.bound ≤ p.2)) with
  | some p => .outOfRange p.1 p.2
  | none => .inRange (narrowCall c)

/-- The command word of a table row given as a number, every bit above `nbits` zero; `none` past 48 bits (R76). -/
def tableWord (nbits w : Nat) : Option CmdWord :=
  if nbits ≤ 48 then some (BitVec.ofNat 48 (w % 2 ^ nbits)) else none

/-- The command the decoder reads from a word numbered as the opcode table numbers it (bit 0 least significant, the
whole command one 48-bit word, R70). -/
def decodeTableWord (nbits w : Nat) : Option Instr :=
  match tableWord nbits w with
  | none => none
  | some cmd =>
    match decode cmd with
    | .legal i => some i
    | .illegal _ => none

end Sys2Proof
end

