-- ==== Sys2Proof/Machine/State.lean ====
section
/-! DEFINITION. The machine's state as plain data (10_state.md), the turns of its agents (00_scope.md rule R12), and the
reasons a step can stop (60_exceptions.md). -/

namespace Sys2Proof.Machine

/-- The sequencer phase (R21). -/
inductive Phase where
  /-- No command in progress; the port pair is not owned. -/
  | idle
  /-- Command latched, first address not yet written. -/
  | addr1
  /-- First address written. -/
  | data1
  /-- CHECK_VENDOR only: device found, second address not yet written. -/
  | addr2
  /-- CHECK_VENDOR only: second address written. -/
  | data2
  deriving DecidableEq, Repr

/-- The registers of the response interface (R11, R22). -/
inductive RespReg where
  | value
  | status
  | valid
  deriving DecidableEq, Repr

/-- One response of the block (R22, R141): an element of the observation of R55. -/
structure Response where
  status : BitVec 2
  value : Dword
  deriving DecidableEq, Repr

/-- What a requester read from the response interface (log entry 6). -/
structure Reading where
  reader : Nat
  register : RespReg
  value : Dword
  deriving DecidableEq, Repr

/-- One turn of an agent (R12; log entry 1). -/
inductive Turn where
  /-- The block sequencer takes its next step (R21). -/
  | sequencer
  /-- A requester issues a command word (R78). -/
  | issue (requester : Nat) (cmd : CmdWord)
  /-- A requester issues a command at an interface that takes wide numbers (R144). -/
  | call (requester : Nat) (c : WideCall)
  /-- A requester reads a register of the response interface (R22, R143). -/
  | readResponse (requester : Nat) (register : RespReg)
  /-- Another port master writes an I/O port (R55, R145). -/
  | portWrite (master : Nat) (port : IoPort) (value : Dword)
  /-- Another port master reads an I/O port (R55, R145). -/
  | portRead (master : Nat) (port : IoPort)
  /-- The block is reset (R160). -/
  | reset
  deriving DecidableEq, Repr

/-- Why a run has no meaning from here on. -/
inductive Fault where
  /-- R143: RESP_VALUE or RESP_STATUS was read while RESP_VALID is 0, or by a requester other than the issuer; raised by
  `readResponse`, records the reader. SAFE: a real interface would return some value. -/
  | responseNotValid (reader : Nat)
  /-- R145: another port master's access to 0xCF8 or 0xCFC while the block owns the pair; raised by `otherWrite` and
  `otherRead`, records the event. SAFE: on real hardware the run goes on. -/
  | portPairInterleaved (event : PortEvent)
  /-- R141, U16: RESP_STATUS 2 or 3 seen in a valid response; raised by `readResponse`. SAFE: no run reaches it. -/
  | reservedStatus (code : BitVec 2)
  /-- R21: the command has no step in this phase; raised by the meanings. SAFE: no run reaches it (stuck). -/
  | noSequencerStep (phase : Phase)
  /-- R74, R78: the phase is not IDLE and REQ holds no command; raised by `sequencerStep`. SAFE: no run reaches it (stuck). -/
  | reqNotACommand (req : CmdWord)
  deriving DecidableEq, Repr

/-- Why an input is refused before any step. -/
inductive Refusal where
  /-- An instruction whose meaning is not written; raised by no arm of this model. SAFE. -/
  | notModelled (mnemonic : String)
  /-- R144, ProgrammingError: an argument of a wide call is out of its range; raised by `agentStep`, records the argument.
  SAFE: the source does not say what the reference computes. -/
  | programmingError (arg : Operand) (value : Nat)
  deriving DecidableEq, Repr

/-- The state: the block's phase and latches (R21, R22), the address latch behind the address port (R24), the observation
(R55), the issuer tag (R143), and the model's own bookkeeping (log entries 1, 3, 6). -/
structure State where
  /-- The sequencer phase (R21). -/
  phase : Phase
  /-- REQ (R22). -/
  req : CmdWord
  /-- A (R22). -/
  a : Dword
  /-- D (R22). -/
  d : Dword
  /-- RESP_VALUE (R22). -/
  respValue : Dword
  /-- RESP_STATUS (R22, R141). -/
  respStatus : BitVec 2
  /-- RESP_VALID (R22). -/
  respValid : Bool
  /-- CONFIG_ADDRESS, the port target's address latch (R24). -/
  addressLatch : Dword
  /-- The port history, oldest first (R55). -/
  history : List PortEvent
  /-- The sequence of responses, oldest first (R55). -/
  responses : List Response
  /-- The requester that issued REQ (R143); none before the first issue since reset. -/
  issuer : Option Nat
  /-- The model's own: what requesters read, oldest first (log entry 6). -/
  readings : List Reading
  /-- The model's own: how many free values were drawn (log entry 3). -/
  draws : Nat
  /-- The model's own: the turns to come, next first (log entry 1). -/
  agenda : List Turn
  deriving DecidableEq, Repr

/-- The machine right after reset (R30, R160): phase IDLE and RESP_VALID 0; the registers R30 calls unspecified hold zero
(DESIGN CHOICE, unsafe: log entry 4); nothing has happened yet and no turn is planned. -/
def State.reset : State where
  phase := .idle
  req := 0#48
  a := 0#32
  d := 0#32
  respValue := 0#32
  respStatus := 0#2
  respValid := false
  addressLatch := 0#32
  history := []
  responses := []
  issuer := none
  readings := []
  draws := 0
  agenda := []

end Sys2Proof.Machine
end

