-- ==== Sys2Proof/Machine/Ops.lean ====
section
/-! DEFINITION. The named operations on the state: register writes and `respond` (10_state.md rules R21, R22), the port
accesses (00_scope.md rule R9, 20_memory.md rule R55), the actions of the other agents (60_exceptions.md rules R143, R145)
and reset (70_reset_and_hazards.md rule R160). The block takes no trap (R149): the one error it answers is
`respondIllegal`, a response. -/

namespace Sys2Proof.Machine

/-- `owned = (phase != IDLE)` (R23). -/
def State.owned (s : State) : Bool := s.phase != .idle

/-- The data window: the config dword the address latch selects now (R25). -/
def State.window (s : State) : ConfigDword := selectedDword s.addressLatch

/-- `phase <- p` (R8). -/
def State.goto (s : State) (p : Phase) : State := { s with phase := p }

/-- `A <- v` (R22). -/
def State.setA (s : State) (v : Dword) : State := { s with a := v }

/-- `D <- v` (R22). -/
def State.setD (s : State) (v : Dword) : State := { s with d := v }

/-- The turns to come become `t` (log entry 1). -/
def State.setAgenda (s : State) (t : List Turn) : State := { s with agenda := t }

/-- `respond(status, value)` (R22): the response latch, and the response joins the observation (R55). -/
def State.respond (s : State) (status : BitVec 2) (value : Dword) : State :=
  { s with respStatus := status, respValue := value, respValid := true, responses := s.responses ++ [⟨status, value⟩] }

/-- The opening of the issue step (R78): `REQ <- cmd`, `RESP_VALID <- 0`, and the issuer beside REQ (R143). -/
def State.latchRequest (s : State) (requester : Nat) (cmd : CmdWord) : State :=
  { s with req := cmd, respValid := false, issuer := some requester }

/-- The response to an ILLEGAL word (R75, R142): `respond(1, 0)`, and the phase is IDLE. -/
def State.respondIllegal (s : State) : State := (s.respond statusIllegalCommand 0#32).goto .idle

/-- `IoWrite32(port, v)` by an agent (R9, R55): one event; a write to the address port changes the latch (R24, R57). -/
def State.ioWrite32 (s : State) (agent : PortAgent) (port : IoPort) (v : Dword) : State :=
  { s with
    addressLatch := if port = Config.addrPort then v else s.addressLatch
    history := s.history ++ [⟨agent, .write, port, v⟩] }

/-- What the port target answers to a read now (R26): a fresh draw. -/
def State.answer (s : State) (port : IoPort) : Dword :=
  Config.portAnswer ⟨s.draws, port, s.addressLatch, s.history⟩

/-- The record of a read that was answered `v` (R55), which uses up the draw (R57). -/
def State.recordRead (s : State) (agent : PortAgent) (port : IoPort) (v : Dword) : State :=
  { s with history := s.history ++ [⟨agent, .read, port, v⟩], draws := s.draws + 1 }

/-- `IoRead32(port)` by an agent (R9, R55): the answer, and the state after. -/
def State.ioRead32 (s : State) (agent : PortAgent) (port : IoPort) : Dword × State :=
  (s.answer port, s.recordRead agent port (s.answer port))

/-- `A <- v`, then `phase <- p`: how an issue action and CHECK_VENDOR's DATA1 step set up an address write (R110, R131). -/
def State.armAddress (s : State) (v : Dword) (p : Phase) : State := (s.setA v).goto p

/-- The ADDR1 and ADDR2 steps: `IoWrite32(0xCF8, A)`, then `phase <- p` (R110, R115, R131). -/
def State.writeAddress (s : State) (p : Phase) : State := (s.ioWrite32 .block Config.addrPort s.a).goto p

/-- `D <- IoRead32(0xCFC)` (R110, R131). -/
def State.readData (s : State) : State := (s.ioRead32 .block Config.dataPort).2.setD (s.ioRead32 .block Config.dataPort).1

/-- `respond(0, v)`, then `phase <- IDLE`: the end of every legal command (R101, R110, R115, R131). -/
def State.complete (s : State) (v : Dword) : State := (s.respond statusOk v).goto .idle

/-- The value a register of the response interface shows, zero-extended to 32 bits (R22). -/
def State.respRegister (s : State) : RespReg → Dword
  | .value => s.respValue
  | .status => s.respStatus.setWidth 32
  | .valid => (BitVec.ofBool s.respValid).setWidth 32

/-- A requester gets the value of a response register; the latch is not changed (R22). -/
def State.recordReading (s : State) (requester : Nat) (register : RespReg) : State :=
  { s with readings := s.readings ++ [⟨requester, register, s.respRegister register⟩] }

/-- The response to `requester` is there to be read (R22, R143): RESP_VALID is 1 and it issued the command. -/
def State.responseIsFor (s : State) (requester : Nat) : Bool := s.respValid && s.issuer == some requester

/-- A requester reads a response register (R22, R143): RESP_VALID always; RESP_VALUE and RESP_STATUS only while the latch
holds a response to that requester's command, else ResponseNotValid; a reserved status seen is a fault (R141, U16). -/
def readResponse (requester : Nat) (register : RespReg) (s : State) : Host.Outcome State Fault Refusal :=
  if register = .valid then .next (s.recordReading requester register)
  else if s.responseIsFor requester = false then .fault (.responseNotValid requester)
  else if statusIsReserved s.respStatus then .fault (.reservedStatus s.respStatus)
  else .next (s.recordReading requester register)

/-- A port of the port pair (R13, R145). -/
def isPairPort (port : IoPort) : Bool := port == Config.addrPort || port == Config.dataPort

/-- Another port master writes a port (R55): PortPairInterleaved on the pair while it is owned (R145), else an event. -/
def otherWrite (master : Nat) (port : IoPort) (v : Dword) (s : State) : Host.Outcome State Fault Refusal :=
  if s.owned && isPairPort port then .fault (.portPairInterleaved ⟨.other master, .write, port, v⟩)
  else .next (s.ioWrite32 (.other master) port v)

/-- Another port master reads a port (R55): PortPairInterleaved on the pair while it is owned (R145), else an event. -/
def otherRead (master : Nat) (port : IoPort) (s : State) : Host.Outcome State Fault Refusal :=
  if s.owned && isPairPort port then .fault (.portPairInterleaved ⟨.other master, .read, port, s.answer port⟩)
  else .next (s.ioRead32 (.other master) port).2

/-- Reset of the block (R160): IDLE and RESP_VALID 0; what R30 and R161 call unspecified takes free values; a command in
progress is abandoned without a response; the port history stays. -/
def State.resetBlock (s : State) : State :=
  { s with
    phase := .idle
    req := Config.resetReq s.draws
    a := Config.resetA s.draws
    d := Config.resetD s.draws
    respValue := Config.resetRespValue s.draws
    respStatus := Config.resetRespStatus s.draws
    respValid := false
    addressLatch := Config.resetAddressLatch s.draws
    issuer := none
    draws := s.draws + 1 }

/-- A command word presented on the request interface by requester 0 to an idle block, before every other turn: how a
program's instruction comes to the machine (R63, R70; log entry 10). -/
def State.presentWord (s : State) (cmd : CmdWord) : State :=
  { s with phase := .idle, agenda := .issue 0 cmd :: s.agenda }

end Sys2Proof.Machine
end

