-- ==== Sys2Proof/Machine/Encoder.lean ====
section
/-! DEFINITION. The ENCODE command (40_encoder.md rule R101). -/

namespace Sys2Proof.Machine

/-- ENCODE (R101): the whole command is its issue action; it has no later step. -/
def execEncode (bus : Bus) (slot : Slot) (func : Func) (offset : Offset) (s : State) : Host.Outcome State Fault Refusal :=
  match s.phase with
  | .idle => .next (s.complete (configAddress bus slot func offset))
  | .addr1 => .fault (.noSequencerStep .addr1)
  | .data1 => .fault (.noSequencerStep .data1)
  | .addr2 => .fault (.noSequencerStep .addr2)
  | .data2 => .fault (.noSequencerStep .data2)

end Sys2Proof.Machine
end

