-- ==== Sys2Proof/Machine/Probe.lean ====
section
/-! DEFINITION. The device-presence detector's command, CHECK_VENDOR (42_probe.md rule R131). -/

namespace Sys2Proof.Machine

/-- CHECK_VENDOR's DATA1 step after `D <- IoRead32(0xCFC)`: absent ends the command with 0, present sets up the second
address (R131); bits 15:0 of the first read alone decide (R133). -/
def decidePresence (bus : Bus) (slot : Slot) (s : State) : State :=
  if isAbsent (halfSelect s.d 0x00#8) then s.complete Config.probeAbsentResult
  else s.armAddress (configAddress bus slot 0#3 0x02#8) .addr2

/-- CHECK_VENDOR (R131): its issue action at IDLE, then its ADDR1, DATA1, ADDR2 and DATA2 steps. -/
def execCheckVendor (bus : Bus) (slot : Slot) (s : State) : Host.Outcome State Fault Refusal :=
  match s.phase with
  | .idle => .next (s.armAddress (configAddress bus slot 0#3 0x00#8) .addr1)
  | .addr1 => .next (s.writeAddress .data1)
  | .data1 => .next (decidePresence bus slot s.readData)
  | .addr2 => .next (s.writeAddress .data2)
  | .data2 => .next (s.readData.complete (widen (halfSelect s.readData.d 0x02#8)))

end Sys2Proof.Machine
end

