-- ==== Sys2Proof/Machine/Transport.lean ====
section
/-! DEFINITION. The config-port transport's commands (41_transport.md): READ_WORD (R110) and WRITE_WORD (R115). -/

namespace Sys2Proof.Machine

/-- READ_WORD (R110): its issue action at IDLE, then its ADDR1 and DATA1 steps. -/
def execReadWord (bus : Bus) (slot : Slot) (func : Func) (offset : Offset) (s : State) :
    Host.Outcome State Fault Refusal :=
  match s.phase with
  | .idle => .next (s.armAddress (configAddress bus slot func offset) .addr1)
  | .addr1 => .next (s.writeAddress .data1)
  | .data1 => .next (s.readData.complete (widen (halfSelect s.readData.d offset)))
  | .addr2 => .fault (.noSequencerStep .addr2)
  | .data2 => .fault (.noSequencerStep .data2)

/-- WRITE_WORD (R115): its issue action at IDLE, then its ADDR1 and DATA1 steps. The data is zero-extended and never
shifted into the odd half: the source's defect, kept (R116, R117). -/
def execWriteWord (bus : Bus) (slot : Slot) (func : Func) (offset : Offset) (data : Word) (s : State) :
    Host.Outcome State Fault Refusal :=
  match s.phase with
  | .idle => .next (s.armAddress (configAddress bus slot func offset) .addr1)
  | .addr1 => .next (s.writeAddress .data1)
  | .data1 => .next ((s.ioWrite32 .block Config.dataPort (widen data)).complete 0#32)
  | .addr2 => .fault (.noSequencerStep .addr2)
  | .data2 => .fault (.noSequencerStep .data2)

end Sys2Proof.Machine
end

