-- ==== Sys2Proof/Machine/Dispatch.lean ====
section
/-! DEFINITION. One arm per command (30_encoding.md rule R73): `exec i s` is the transition of command `i` that the phase
of `s` calls for, the issue action at IDLE (R78) and one port access in every other phase (R21). -/

namespace Sys2Proof.Machine

def exec (i : Instr) (s : State) : Host.Outcome State Fault Refusal :=
  match i with
  | .encode bus slot func offset => Sys2Proof.Machine.execEncode bus slot func offset s
  | .readWord bus slot func offset => Sys2Proof.Machine.execReadWord bus slot func offset s
  | .writeWord bus slot func offset data => Sys2Proof.Machine.execWriteWord bus slot func offset data s
  | .checkVendor bus slot => Sys2Proof.Machine.execCheckVendor bus slot s

end Sys2Proof.Machine
end

