-- ==== Sys2Proof/Machine/Turns.lean ====
section
/-! DEFINITION. What each agent does in its turn (00_scope.md rule R12): the sequencer's step (10_state.md rule R21), the
issue step (30_encoding.md rule R78) with its hold, and the turns of requesters, other port masters and reset. -/

namespace Sys2Proof.Machine

/-- The sequencer's step (R21): none at IDLE, else the step of the command that REQ holds. -/
def sequencerStep (s : State) : Host.Outcome State Fault Refusal :=
  if s.owned then
    match decode s.req with
    | .legal i => exec i s
    | .illegal _ => .fault (.reqNotACommand s.req)
  else .next s

/-- The issue step (R78), enabled at IDLE: latch the request, then the issue action of its command, or the response to an
ILLEGAL word (R142). -/
def issueStep (requester : Nat) (cmd : CmdWord) (s : State) : Host.Outcome State Fault Refusal :=
  match decode cmd with
  | .legal i => exec i (s.latchRequest requester cmd)
  | .illegal _ => .next (s.latchRequest requester cmd).respondIllegal

/-- A requester presents a command (R78): issued at IDLE, with the turns `rest` to come; while a command is in progress
it holds, and the sequencer moves on meanwhile (R171, U19). -/
def requestTurn (requester : Nat) (cmd : CmdWord) (rest : List Turn) (s : State) : Host.Outcome State Fault Refusal :=
  if s.owned then sequencerStep s else issueStep requester cmd (s.setAgenda rest)

/-- The turn `t` of an agent, with the turns `rest` to come after it (R12). -/
def agentStep (t : Turn) (rest : List Turn) (s : State) : Host.Outcome State Fault Refusal :=
  match t with
  | .sequencer => sequencerStep (s.setAgenda rest)
  | .issue r cmd => requestTurn r cmd rest s
  | .call r c =>
    match checkCall c with
    | .inRange i => requestTurn r (encode i) rest s
    | .outOfRange arg value => .refused (.programmingError arg value)
  | .readResponse r register => readResponse r register (s.setAgenda rest)
  | .portWrite m port v => otherWrite m port v (s.setAgenda rest)
  | .portRead m port => otherRead m port (s.setAgenda rest)
  | .reset => .next (s.setAgenda rest).resetBlock

end Sys2Proof.Machine
end

