-- ==== Sys2Proof/Machine/Step.lean ====
section
/-! DEFINITION. One step of the machine: the next turn of the agenda, or the sequencer's step where no turn is planned
(70_reset_and_hazards.md rule R171: a command that has been issued goes on to its end). -/

namespace Sys2Proof.Machine

/-- One step: the agent whose turn it is moves (R12). -/
def step (s : State) : Host.Outcome State Fault Refusal :=
  match s.agenda with
  | [] => sequencerStep s
  | t :: rest => agentStep t rest s

/-- `s` with the command word presented so that the very next step issues it (log entry 10). -/
def State.withFetchWord (s : State) (nbits w : Nat) : State :=
  match tableWord nbits w with
  | some cmd => s.presentWord cmd
  | none => s

end Sys2Proof.Machine
end

