-- ==== Sys2Proof/Machine/Assembler.lean ====
section
/-! DEFINITION. The assembler syntax (30_encoding.md rule R77) on the characters of one line: a mnemonic, then
comma-separated unsigned operands in decimal or 0x hexadecimal. It refuses by name and line and never truncates. -/

namespace Sys2Proof.Machine

/-- The mnemonics of R77: four commands and five pseudo-instructions. -/
inductive Mnemonic where
  | encode
  | readWord
  | writeWord
  | checkVendor
  | rdVendor
  | rdDevice
  | rdCmd
  | rdStatus
  | wrCmd
  deriving DecidableEq, Repr

/-- Why a line is refused (R77), with its line number. -/
inductive AsmError where
  | unknownMnemonic (line : Nat)
  | wrongOperandCount (line : Nat)
  | notANumber (line : Nat)
  | outOfRange (line : Nat) (arg : Operand) (value : Nat)
  deriving DecidableEq, Repr

/-- What a line assembles to: one command word (R77: "each one command"), or a refusal. -/
inductive Assembled where
  | word (cmd : CmdWord)
  | refused (e : AsmError)
  deriving DecidableEq, Repr

/-- The spellings of the mnemonics, short aliases among them (R77). -/
def mnemonicTable : List (String × Mnemonic) :=
  [ ("ENCODE", .encode), ("READ_WORD", .readWord), ("WRITE_WORD", .writeWord), ("CHECK_VENDOR", .checkVendor),
    ("ENC", .encode), ("RDW", .readWord), ("WRW", .writeWord), ("PROBE", .checkVendor),
    ("RDVENDOR", .rdVendor), ("RDDEVICE", .rdDevice), ("RDCMD", .rdCmd), ("RDSTATUS", .rdStatus), ("WRCMD", .wrCmd) ]

/-- The mnemonic that a spelling names, if any. -/
def mnemonicOf (name : List Char) : Option Mnemonic :=
  (mnemonicTable.find? fun row => row.1.toList == name).map (·.2)

/-- The call of a mnemonic with its operands (R77's expansions); `none` where their number is not the mnemonic's. -/
def callOf : Mnemonic → List Nat → Option WideCall
  | .encode, [b, s, f, o] => some (.encode b s f o)
  | .readWord, [b, s, f, o] => some (.readWord b s f o)
  | .writeWord, [b, s, f, o, d] => some (.writeWord b s f o d)
  | .checkVendor, [b, s] => some (.checkVendor b s)
  | .rdVendor, [b, s, f] => some (.readWord b s f 0x00)
  | .rdDevice, [b, s, f] => some (.readWord b s f 0x02)
  | .rdCmd, [b, s, f] => some (.readWord b s f 0x04)
  | .rdStatus, [b, s, f] => some (.readWord b s f 0x06)
  | .wrCmd, [b, s, f, d] => some (.writeWord b s f 0x04 d)
  | _, _ => none

/-- The value of a digit in base 16. -/
def digitValue (c : Char) : Option Nat :=
  if '0' ≤ c ∧ c ≤ '9' then some (c.toNat - '0'.toNat)
  else if 'a' ≤ c ∧ c ≤ 'f' then some (c.toNat - 'a'.toNat + 10)
  else if 'A' ≤ c ∧ c ≤ 'F' then some (c.toNat - 'A'.toNat + 10)
  else none

/-- The number that digits spell in a base, most significant first, on top of `acc`. -/
def digitsValue (base : Nat) : Nat → List Char → Option Nat
  | acc, [] => some acc
  | acc, c :: cs =>
    match digitValue c with
    | none => none
    | some v => if v < base then digitsValue base (acc * base + v) cs else none

/-- A numeral, decimal or 0x hexadecimal (R77). -/
def numeralValue : List Char → Option Nat
  | [] => none
  | '0' :: 'x' :: [] => none
  | '0' :: 'x' :: c :: cs => digitsValue 16 0 (c :: cs)
  | c :: cs => digitsValue 10 0 (c :: cs)

/-- A blank of a line. -/
def isBlank (c : Char) : Bool := c == ' ' || c == '\t'

/-- A text without the blanks at its two ends. -/
def trimBlanks (cs : List Char) : List Char := ((cs.dropWhile isBlank).reverse.dropWhile isBlank).reverse

/-- The parts of a text between its commas. -/
def splitCommas : List Char → List (List Char)
  | [] => [[]]
  | c :: cs =>
    match splitCommas cs with
    | [] => [[c]]
    | part :: parts => if c = ',' then [] :: part :: parts else (c :: part) :: parts

/-- The numbers of a line's operand text; an empty text has none. -/
def operandValues (cs : List Char) : Option (List Nat) :=
  if trimBlanks cs = [] then some []
  else (splitCommas cs).mapM fun part => numeralValue (trimBlanks part)

/-- The mnemonic's text of a line: up to the first blank. -/
def mnemonicText (text : List Char) : List Char := (text.dropWhile isBlank).takeWhile fun c => !isBlank c

/-- The operands' text of a line: from the blank after the mnemonic on. -/
def operandText (text : List Char) : List Char := (text.dropWhile isBlank).dropWhile fun c => !isBlank c

/-- The command word of one line (R77). -/
def assembleLine (line : Nat) (text : List Char) : Assembled :=
  match mnemonicOf (mnemonicText text) with
  | none => .refused (.unknownMnemonic line)
  | some m =>
    match operandValues (operandText text) with
    | none => .refused (.notANumber line)
    | some values =>
      match callOf m values with
      | none => .refused (.wrongOperandCount line)
      | some c =>
        match checkCall c with
        | .inRange i => .word (encode i)
        | .outOfRange arg value => .refused (.outOfRange line arg value)

end Sys2Proof.Machine
end

