-- ==== Sys2Proof/Safety.lean ====
section
/-! DEFINITION. What counts as a sound state, in the terms the statements use: the sequencer's state belongs to the command
in REQ, the response latch holds the last response, and the port history obeys the discipline of the port pair. And R77's
tables of the assembler syntax, as rows that the statements about the assembler range over. -/

namespace Sys2Proof.Machine

/-- The phases in which a command has a step after its issue (R101, R110, R115, R131). -/
def hasStep : Instr → Phase → Bool
  | .encode _ _ _ _, _ => false
  | .readWord _ _ _ _, p => p == .addr1 || p == .data1
  | .writeWord _ _ _ _ _, p => p == .addr1 || p == .data1
  | .checkVendor _ _, p => p != .idle

/-- The one address a command forms (R104); CHECK_VENDOR's two are the same value (R131). -/
def commandAddress : Instr → Dword
  | .encode b s f o => configAddress b s f o
  | .readWord b s f o => configAddress b s f o
  | .writeWord b s f o _ => configAddress b s f o
  | .checkVendor b s => configAddress b s 0#3 0x00#8

/-- While a command is in progress, REQ holds a command that has a step in this phase, A holds its address, and after the
address write the latch holds A (R21, R22, R29). -/
def SequencerCoherent (s : State) : Prop :=
  s.owned = true → ∃ i, decode s.req = .legal i ∧ hasStep i s.phase = true ∧ s.a = commandAddress i ∧
    (s.phase = .data1 ∨ s.phase = .data2 → s.addressLatch = s.a)

/-- A response the block may give (R141): OK, or ILLEGAL_COMMAND with value 0. -/
def responseAllowed (r : Response) : Bool :=
  r.status == statusOk || (r.status == statusIllegalCommand && r.value == 0#32)

/-- RESP_VALID is 0 while a command is in progress; a valid latch holds the last response; every response is an allowed
one; a command in progress or answered has an issuer (R22, R141, R143). -/
def ResponseLatchSound (s : State) : Prop :=
  (s.owned = true → s.respValid = false) ∧
  (s.respValid = true → s.responses.getLast? = some ⟨s.respStatus, s.respValue⟩) ∧
  (∀ r ∈ s.responses, responseAllowed r = true) ∧
  (s.owned = true ∨ s.respValid = true → s.issuer.isSome = true)

/-- The event is an access to the port pair. -/
def isPairEvent (e : PortEvent) : Bool := isPairPort e.port

/-- The last access to the port pair in a history. -/
def lastPairEvent (h : List PortEvent) : Option PortEvent := (h.filter isPairEvent).getLast?

/-- The shape of a ConfigAddress (R102, law 7): bit 31 set, bits 30:24 and 1:0 clear. -/
def isConfigAddress (v : Dword) : Bool :=
  v.extractLsb' 31 1 == 1#1 && v.extractLsb' 24 7 == 0#7 && v.extractLsb' 0 2 == 0#2

/-- Every data-port access of the block comes right after the block's own write of a ConfigAddress to the address port, no
access to the port pair between them (R59, R113, R163, R165). -/
def AddressBeforeData (h : List PortEvent) : Prop :=
  ∀ pre e post, h = pre ++ e :: post → e.agent = .block → e.port = Config.dataPort →
    ∃ v, lastPairEvent pre = some ⟨.block, .write, Config.addrPort, v⟩ ∧ isConfigAddress v = true

/-- The history obeys the discipline of the port pair, and the sequencer's state will keep it so. -/
def PortDiscipline (s : State) : Prop :=
  AddressBeforeData s.history ∧
  (s.owned = true → isConfigAddress s.a = true) ∧
  (s.phase = .data1 ∨ s.phase = .data2 →
    lastPairEvent s.history = some ⟨.block, .write, Config.addrPort, s.a⟩)

/-- The observation of a run (R55, D28): the port history and the sequence of responses. -/
def State.observation (s : State) : List PortEvent × List Response := (s.history, s.responses)

/-- A run has ended (D28): no command is in progress and no agent has a turn to come. -/
def State.runEnded (s : State) : Bool := !s.owned && s.agenda.isEmpty

/-- The machine's run of `n` steps from `s` ends in `t` without a fault or a refusal. -/
def RunsTo (n : Nat) (s t : State) : Prop := Host.Core.run Sys2Proof.core n s = Host.Outcome.next t

/-- A line of R77's tables: a mnemonic, the numbers of its operands, and the call they stand for. -/
structure SyntaxRow where
  name : String
  operands : List Nat
  call : WideCall
  deriving DecidableEq, Repr

/-- R77's lines for one choice of numbers: the commands, their short aliases, and the pseudo-instructions. -/
def syntaxRows (b s f o d : Nat) : List SyntaxRow :=
  [ ⟨"ENCODE", [b, s, f, o], .encode b s f o⟩,
    ⟨"READ_WORD", [b, s, f, o], .readWord b s f o⟩,
    ⟨"WRITE_WORD", [b, s, f, o, d], .writeWord b s f o d⟩,
    ⟨"CHECK_VENDOR", [b, s], .checkVendor b s⟩,
    ⟨"ENC", [b, s, f, o], .encode b s f o⟩,
    ⟨"RDW", [b, s, f, o], .readWord b s f o⟩,
    ⟨"WRW", [b, s, f, o, d], .writeWord b s f o d⟩,
    ⟨"PROBE", [b, s], .checkVendor b s⟩,
    ⟨"RDVENDOR", [b, s, f], .readWord b s f 0x00⟩,
    ⟨"RDDEVICE", [b, s, f], .readWord b s f 0x02⟩,
    ⟨"RDCMD", [b, s, f], .readWord b s f 0x04⟩,
    ⟨"RDSTATUS", [b, s, f], .readWord b s f 0x06⟩,
    ⟨"WRCMD", [b, s, f, d], .writeWord b s f 0x04 d⟩ ]

/-- `c` is the digit of value `d`, a letter in either case. -/
def IsDigitOf (d : Nat) (c : Char) : Prop :=
  "0123456789abcdef".toList[d]? = some c ∨ "0123456789ABCDEF".toList[d]? = some c

/-- The characters `cs` are digits that spell `n` in a base, the most significant first, leading zeros allowed. -/
def IsNumeralIn (base n : Nat) (cs : List Char) : Prop :=
  ∃ ds : List Nat, ds ≠ [] ∧ (∀ d ∈ ds, d < base) ∧ Nat.ofDigits base ds.reverse = n ∧ List.Forall₂ IsDigitOf ds cs

/-- The characters `cs` are a numeral of `n`, decimal or 0x hexadecimal (R77). -/
def IsNumeralOf (n : Nat) (cs : List Char) : Prop :=
  IsNumeralIn 10 n cs ∨ ∃ hex, cs = '0' :: 'x' :: hex ∧ IsNumeralIn 16 n hex

end Sys2Proof.Machine
end

