-- ==== Sys2Proof/Certificates/Slice0/Obligations.lean ====
section
/-! DEFINITION. The statements for the provers: what the numbered rules of spec/ say the block does. Events, masks and ports
are written out as the rules write them. That an agent acts now is said by its turn standing first in the agenda (log entry
1); port answers are the free value of log entry 3, and every statement holds whatever they are. -/

open Sys2Proof Sys2Proof.Machine

/-! ### Encoding -/

/-- 95_test_vectors.md sections 2.1 to 2.5: a few of its command words, one or more of each command, and illegal words,
decode as its tables say. -/
def Obligations.TestVectorWordsDecode : Prop :=
  decode 0x00000012553C#48 = .legal (.encode 0x12#8 10#5 5#3 0x3C#8) ∧
  decode 0x000040030AFE#48 = .legal (.readWord 3#8 1#5 2#3 0xFE#8) ∧
  decode 0x800180FFFFFE#48 = .legal (.writeWord 0xFF#8 31#5 7#3 0xFE#8 0x8001#16) ∧
  decode 0x123480002806#48 = .legal (.writeWord 0#8 5#5 0#3 0x06#8 0x1234#16) ∧
  decode 0x0000C001F800#48 = .legal (.checkVendor 1#8 31#5) ∧
  decode 0x0000BF000000#48 = .illegal .reservedBits ∧
  decode 0xFFFF00000000#48 = .illegal .strayData ∧
  decode 0x0000C0002900#48 = .illegal .strayProbeBits

/-- Rule R74: the three checks, the command that op selects with the fields of R72, and that the words that pass are
those that match exactly one row of R73. -/
def Obligations.DecodeFollowsItsChecks : Prop :=
  ∀ w : CmdWord,
    (w.extractLsb' 24 6 ≠ 0#6 → ∃ why, decode w = .illegal why) ∧
    (w.extractLsb' 30 2 ≠ 0b10#2 → w.extractLsb' 32 16 ≠ 0#16 → ∃ why, decode w = .illegal why) ∧
    (w.extractLsb' 30 2 = 0b11#2 → w.extractLsb' 0 11 ≠ 0#11 → ∃ why, decode w = .illegal why) ∧
    (w.extractLsb' 24 6 = 0#6 → (w.extractLsb' 30 2 ≠ 0b10#2 → w.extractLsb' 32 16 = 0#16) →
      (w.extractLsb' 30 2 = 0b11#2 → w.extractLsb' 0 11 = 0#11) →
      (w.extractLsb' 30 2 = 0b00#2 → decode w = .legal
        (.encode (w.extractLsb' 16 8) (w.extractLsb' 11 5) (w.extractLsb' 8 3) (w.extractLsb' 0 8))) ∧
      (w.extractLsb' 30 2 = 0b01#2 → decode w = .legal
        (.readWord (w.extractLsb' 16 8) (w.extractLsb' 11 5) (w.extractLsb' 8 3) (w.extractLsb' 0 8))) ∧
      (w.extractLsb' 30 2 = 0b10#2 → decode w = .legal (.writeWord (w.extractLsb' 16 8) (w.extractLsb' 11 5)
        (w.extractLsb' 8 3) (w.extractLsb' 0 8) (w.extractLsb' 32 16))) ∧
      (w.extractLsb' 30 2 = 0b11#2 → decode w = .legal (.checkVendor (w.extractLsb' 16 8) (w.extractLsb' 11 5)))) ∧
    ((∃ i, decode w = .legal i) ↔ (opcodeRows.filter fun row => row.selects w).length = 1) ∧
    ((∃ i, decode w = .legal i) ↔ ∃ row ∈ opcodeRows, row.selects w = true)

/-- Rules R70 to R73: decoding the word of a command gives the command back, with every operand. -/
def Obligations.EncodedCommandsDecodeBack : Prop := ∀ i : Instr, decode (encode i) = .legal i

/-- Rules R71 and R74: a word that decodes to a command is that command's word, so a command has one word. -/
def Obligations.CommandsHaveOneWord : Prop := ∀ (w : CmdWord) (i : Instr), decode w = .legal i → w = encode i

/-- Rule R77, over the mnemonic and the numbers of a line: a line that assembles is one of R77's lines, and its word is
the command named there with the line's very numbers, so a legal word; each of R77's lines with its operands in range
assembles to that word; one with an operand out of its range is refused by such an operand's name, its number and the
line; every refusal carries the line. Blanks and spellings are the model's choice (log entry 14). -/
def Obligations.AssembledWordsAreLegal : Prop :=
  ∀ (line : Nat) (text : List Char),
    (∀ w, assembleLine line text = .word w → ∃ b s f o d : Nat, ∃ row ∈ syntaxRows b s f o d,
      mnemonicText text = row.name.toList ∧ operandValues (operandText text) = some row.operands ∧
      ∃ i : Instr, i.toCall = row.call ∧ w = encode i ∧ decode w = .legal i) ∧
    (∀ b s f o d : Nat, ∀ row ∈ syntaxRows b s f o d,
      mnemonicText text = row.name.toList → operandValues (operandText text) = some row.operands →
      ((∀ p ∈ row.call.arguments, p.2 < p.1.bound) →
        ∃ i : Instr, i.toCall = row.call ∧ assembleLine line text = .word (encode i)) ∧
      ((∃ p ∈ row.call.arguments, p.1.bound ≤ p.2) →
        ∃ arg value, assembleLine line text = .refused (.outOfRange line arg value) ∧
          (arg, value) ∈ row.call.arguments ∧ arg.bound ≤ value)) ∧
    (∀ e, assembleLine line text = .refused e →
      e = .unknownMnemonic line ∨ e = .notANumber line ∨ e = .wrongOperandCount line ∨
        ∃ arg value, e = .outOfRange line arg value ∧ arg.bound ≤ value)

/-- Rule R77, from the characters of a line: each of R77's lines, its numbers written as numerals in decimal or 0x
hexadecimal (with leading zeros or none, letters in either case) and separated by a comma and a blank, assembles to the word of the command with those very numbers, or is
refused by name and line where one is out of range. That blanks may stand there, and that hexadecimal letters are read in
either case, is the model's choice (log entry 14). -/
def Obligations.LinesAreReadAsWritten : Prop :=
  ∀ (line b s f o d : Nat), ∀ row ∈ syntaxRows b s f o d, ∀ (numerals : List (List Char)) (text : List Char),
    List.Forall₂ IsNumeralOf row.operands numerals →
    text = row.name.toList ++ ' ' :: List.intercalate [',', ' '] numerals →
    ((∀ p ∈ row.call.arguments, p.2 < p.1.bound) →
      ∃ i : Instr, i.toCall = row.call ∧ assembleLine line text = .word (encode i)) ∧
    ((∃ p ∈ row.call.arguments, p.1.bound ≤ p.2) →
      ∃ arg value, assembleLine line text = .refused (.outOfRange line arg value) ∧
        (arg, value) ∈ row.call.arguments ∧ arg.bound ≤ value)

/-! ### Pure functions on operands -/

/-- Rule R100: the ConfigAddress is the OR of the enable bit, the shifted coordinates and `offset & 0xFC`, and equally the
concatenation of its fields. -/
def Obligations.ConfigAddressFormula : Prop :=
  ∀ (b : Bus) (s : Slot) (f : Func) (o : Offset),
    configAddress b s f o = 0x80000000#32 ||| (b.zeroExtend 32 <<< 16) ||| (s.zeroExtend 32 <<< 11) |||
      (f.zeroExtend 32 <<< 8) ||| (o.zeroExtend 32 &&& 0x000000FC#32) ∧
    configAddress b s f o = 1#1 ++ 0#7 ++ b ++ s ++ f ++ o.extractLsb' 2 6 ++ 0#2

/-- Rule R102, laws 1 to 7; the count of law 7 is a numbering of the image by 22 bits, without repeats. -/
def Obligations.EncoderLaws : Prop :=
  (∀ (b : Bus) (s : Slot) (f : Func) (o : Offset),
    (configAddress b s f o).extractLsb' 31 1 = 1#1 ∧
    (configAddress b s f o).extractLsb' 0 2 = 0#2 ∧
    (configAddress b s f o).extractLsb' 24 7 = 0#7 ∧
    (configAddress b s f o).extractLsb' 16 8 = b ∧
    (configAddress b s f o).extractLsb' 11 5 = s ∧
    (configAddress b s f o).extractLsb' 8 3 = f ∧
    (configAddress b s f o).extractLsb' 2 6 = o.extractLsb' 2 6 ∧
    configAddress b s f o = configAddress b s f (o &&& 0xFC#8)) ∧
  (∀ (b b' : Bus) (s s' : Slot) (f f' : Func) (o o' : Offset),
    configAddress b s f o = configAddress b' s' f' o' ↔
      b = b' ∧ s = s' ∧ f = f' ∧ o.extractLsb' 2 6 = o'.extractLsb' 2 6) ∧
  (∀ v : Dword, (∃ b s f o, v = configAddress b s f o) ↔
    v.extractLsb' 31 1 = 1#1 ∧ v.extractLsb' 24 7 = 0#7 ∧ v.extractLsb' 0 2 = 0#2) ∧
  (∃ g : Fin (2 ^ 22) → Dword, Function.Injective g ∧
    ∀ v : Dword, (∃ n, g n = v) ↔ ∃ b s f o, v = configAddress b s f o)

/-- Rule R111: the shift-and-mask form and the form by offset bit 1 of the half selection. -/
def Obligations.HalfSelectionByOffsetBitOne : Prop :=
  ∀ (v : Dword) (o : Offset),
    halfSelect v o = ((v >>> ((o.toNat &&& 2) * 8)) &&& 0xFFFF#32).setWidth 16 ∧
    halfSelect v o = if o.extractLsb' 1 1 = 1#1 then v.extractLsb' 16 16 else v.extractLsb' 0 16

/-- Rule R52: the byte at an offset is bits 8(k&3)+7 : 8(k&3) of its dword, and the two bytes of a word, the higher offset
above, are the word that the half selection gives at either of their offsets (rule R51's lanes). The byte order is log
entry 11 (PRESUMED): R52 marks its sentence as general knowledge, not in the source (D20). -/
def Obligations.ByteLanesAgreeWithWords : Prop :=
  ∀ (v : BitVec 32) (k : BitVec 8),
    byteLane v k = (v >>> (8 * (k.toNat % 4))).setWidth 8 ∧
    halfSelect v k = byteLane v (k ||| 1#8) ++ byteLane v (k &&& 0xFE#8)

/-- Rules R24 and R25: once the latch holds the address of (bus, slot, func, offset), the data window is the dword at
`offset & 0xFC` of that function. The selection by the latch is log entry 8 (PRESUMED: R25's reading, D13). -/
def Obligations.AddressSelectsItsDword : Prop :=
  ∀ (s : State) (b : Bus) (sl : Slot) (f : Func) (o : Offset),
    s.addressLatch = configAddress b sl f o → s.window = ⟨b, sl, f, o.extractLsb' 2 6⟩

/-! ### The commands, phase by phase -/

/-- Rule R101: at IDLE, ENCODE answers at once with the ConfigAddress, OK, and changes nothing but the response latch (the
response joins the observation); the phase stays IDLE, no event is recorded and the latch is unchanged. -/
def Obligations.EncodeAnswersAtOnce : Prop :=
  ∀ (b : Bus) (sl : Slot) (f : Func) (o : Offset) (s : State), s.phase = .idle →
    exec (.encode b sl f o) s = .next
      { s with
        respStatus := 0#2
        respValue := configAddress b sl f o
        respValid := true
        responses := s.responses ++ [⟨0#2, configAddress b sl f o⟩] }

/-- Rule R110, each transition: the issue action, the ADDR1 step and the DATA1 step of READ_WORD, with all that changes.
The value read is the port target's answer, whatever it is (the free value of log entry 3, DESIGN CHOICE). That the
latch holds the value written to 0xCF8 is log entry 8 (PRESUMED: R24 marks it as general knowledge, D13). -/
def Obligations.ReadWordTransitions : Prop :=
  ∀ (b : Bus) (sl : Slot) (f : Func) (o : Offset) (s : State),
    (s.phase = .idle → exec (.readWord b sl f o) s = .next { s with a := configAddress b sl f o, phase := .addr1 }) ∧
    (s.phase = .addr1 → exec (.readWord b sl f o) s = .next
      { s with addressLatch := s.a, history := s.history ++ [⟨.block, .write, 0xCF8#16, s.a⟩], phase := .data1 }) ∧
    (s.phase = .data1 → ∃ v : Dword, v = s.answer 0xCFC#16 ∧ exec (.readWord b sl f o) s = .next
      { s with
        d := v
        history := s.history ++ [⟨.block, .read, 0xCFC#16, v⟩]
        draws := s.draws + 1
        respStatus := 0#2
        respValue := (if o.extractLsb' 1 1 = 1#1 then v.extractLsb' 16 16 else v.extractLsb' 0 16).setWidth 32
        respValid := true
        responses := s.responses ++
          [⟨0#2, (if o.extractLsb' 1 1 = 1#1 then v.extractLsb' 16 16 else v.extractLsb' 0 16).setWidth 32⟩]
        phase := .idle })

/-- Rule R115, each transition: the issue action, the ADDR1 step and the DATA1 step of WRITE_WORD, with all that
changes. That the latch holds the value written to 0xCF8 is log entry 8 (PRESUMED: R24 marks it as general knowledge,
D13); the zero extension of the value sent to 0xCFC is log entry 11 (PRESUMED: R116 marks it as general knowledge, D8).
-/
def Obligations.WriteWordTransitions : Prop :=
  ∀ (b : Bus) (sl : Slot) (f : Func) (o : Offset) (d : Word) (s : State),
    (s.phase = .idle → exec (.writeWord b sl f o d) s = .next { s with a := configAddress b sl f o, phase := .addr1 }) ∧
    (s.phase = .addr1 → exec (.writeWord b sl f o d) s = .next
      { s with addressLatch := s.a, history := s.history ++ [⟨.block, .write, 0xCF8#16, s.a⟩], phase := .data1 }) ∧
    (s.phase = .data1 → exec (.writeWord b sl f o d) s = .next
      { s with
        history := s.history ++ [⟨.block, .write, 0xCFC#16, 0#16 ++ d⟩]
        respStatus := 0#2
        respValue := 0#32
        respValid := true
        responses := s.responses ++ [⟨0#2, 0#32⟩]
        phase := .idle })

/-- Rules R131 and R133, each transition of CHECK_VENDOR: the low half of the first read alone decides between the
answer 0 and the second address write; the device ID is the high half of the second read. Each value read is the free
value of log entry 3 (DESIGN CHOICE). That the latch holds the value written to 0xCF8 is log entry 8 (PRESUMED: R24
marks it as general knowledge, D13). -/
def Obligations.CheckVendorTransitions : Prop :=
  ∀ (b : Bus) (sl : Slot) (s : State),
    (s.phase = .idle → exec (.checkVendor b sl) s = .next { s with a := configAddress b sl 0#3 0x00#8, phase := .addr1 }) ∧
    (s.phase = .addr1 → exec (.checkVendor b sl) s = .next
      { s with addressLatch := s.a, history := s.history ++ [⟨.block, .write, 0xCF8#16, s.a⟩], phase := .data1 }) ∧
    (s.phase = .data1 → ∃ v : Dword, v = s.answer 0xCFC#16 ∧ exec (.checkVendor b sl) s = .next
      (if v.extractLsb' 0 16 = 0xFFFF#16 then
        { s with
          d := v
          history := s.history ++ [⟨.block, .read, 0xCFC#16, v⟩]
          draws := s.draws + 1
          respStatus := 0#2
          respValue := 0#32
          respValid := true
          responses := s.responses ++ [⟨0#2, 0#32⟩]
          phase := .idle }
      else
        { s with
          d := v
          history := s.history ++ [⟨.block, .read, 0xCFC#16, v⟩]
          draws := s.draws + 1
          a := configAddress b sl 0#3 0x02#8
          phase := .addr2 })) ∧
    (s.phase = .addr2 → exec (.checkVendor b sl) s = .next
      { s with addressLatch := s.a, history := s.history ++ [⟨.block, .write, 0xCF8#16, s.a⟩], phase := .data2 }) ∧
    (s.phase = .data2 → ∃ v : Dword, v = s.answer 0xCFC#16 ∧ exec (.checkVendor b sl) s = .next
      { s with
        d := v
        history := s.history ++ [⟨.block, .read, 0xCFC#16, v⟩]
        draws := s.draws + 1
        respStatus := 0#2
        respValue := 0#16 ++ v.extractLsb' 16 16
        respValid := true
        responses := s.responses ++ [⟨0#2, 0#16 ++ v.extractLsb' 16 16⟩]
        phase := .idle })

/-- Rule R112: READ_WORD's result stands in RESP_VALUE bits 15:0, and bits 31:16 are 0. -/
def Obligations.ReadResultIsZeroExtended : Prop :=
  ∀ (b : Bus) (sl : Slot) (f : Func) (o : Offset) (s : State), s.phase = .data1 →
    ∃ t, exec (.readWord b sl f o) s = .next t ∧ t.respValue.extractLsb' 0 16 = halfSelect t.d o ∧
      t.respValue.extractLsb' 16 16 = 0#16

/-- Rule R132: when CHECK_VENDOR ends after its first read, the answer is 0 and the vendor ID read was the sentinel; when it
ends after its second, the answer is 0 exactly when the device ID read was 0x0000. So 0 means either. -/
def Obligations.ZeroAnswerMeansAbsentOrZeroId : Prop :=
  ∀ (b : Bus) (sl : Slot) (s : State),
    (s.phase = .data1 → ∃ t, exec (.checkVendor b sl) s = .next t ∧
      (t.phase = .idle ↔ t.d.extractLsb' 0 16 = 0xFFFF#16) ∧ (t.phase = .idle → t.respValue = 0#32)) ∧
    (s.phase = .data2 → ∃ t, exec (.checkVendor b sl) s = .next t ∧ t.phase = .idle ∧
      (t.respValue = 0#32 ↔ t.d.extractLsb' 16 16 = 0x0000#16))

/-- Rules R116 and R117: the value WRITE_WORD sends to the data port is the data zero-extended; the even word of the
dword receives the data and the odd word 0, so at an even-word offset the data reaches the word named and the other word
gets 0, and at an odd-word offset the data reaches the other word and the word named gets 0. The dword is the one at
`offset & 0xFC` when the latch holds the command's address. The zero extension is log entry 11 (PRESUMED: R116 marks it
as general knowledge, D8) and which dword the data reaches is log entry 8 (PRESUMED, D13): both are those readings. -/
def Obligations.WriteWordIgnoresTheOddWord : Prop :=
  ∀ (b : Bus) (sl : Slot) (f : Func) (o : Offset) (d : Word) (s : State), s.phase = .data1 →
    ∃ (t : State) (v : Dword), exec (.writeWord b sl f o d) s = .next t ∧
      t.history = s.history ++ [⟨.block, .write, 0xCFC#16, v⟩] ∧
      v = d.zeroExtend 32 ∧
      (s.addressLatch = configAddress b sl f o → t.window = ⟨b, sl, f, o.extractLsb' 2 6⟩) ∧
      (o.extractLsb' 1 1 = 0#1 → halfSelect v o = d ∧ halfSelect v (o ^^^ 2#8) = 0#16) ∧
      (o.extractLsb' 1 1 = 1#1 → halfSelect v (o ^^^ 2#8) = d ∧ halfSelect v o = 0#16)

/-- Rule R54: offset bit 0 has no effect on any command, and bit 1 none on ENCODE and WRITE_WORD: offsets that agree above it
give the same outcome in every state. -/
def Obligations.LowOffsetBitsHaveNoEffect : Prop :=
  ∀ (b : Bus) (sl : Slot) (f : Func) (o o' : Offset) (d : Word) (s : State),
    (o.extractLsb' 2 6 = o'.extractLsb' 2 6 →
      exec (.encode b sl f o) s = exec (.encode b sl f o') s ∧
      exec (.writeWord b sl f o d) s = exec (.writeWord b sl f o' d) s) ∧
    (o.extractLsb' 1 7 = o'.extractLsb' 1 7 → exec (.readWord b sl f o) s = exec (.readWord b sl f o') s)

/-! ### Whole commands, from their words -/

/-- Rule R101: a word of ENCODE's row, issued at IDLE, is answered in its issue step with the ConfigAddress of REQ's fields;
no port event, latch unchanged, phase IDLE. -/
def Obligations.EncodeWordRun : Prop :=
  ∀ (s : State) (r : Nat) (w : CmdWord) (rest : List Turn), s.phase = .idle → s.agenda = .issue r w :: rest →
    w &&& 0xFFFFFF000000#48 = 0x000000000000#48 →
    ∃ v : Dword, v = configAddress (w.extractLsb' 16 8) (w.extractLsb' 11 5) (w.extractLsb' 8 3) (w.extractLsb' 0 8) ∧
      RunsTo 1 s
        { s with
          req := w
          issuer := some r
          respStatus := 0#2
          respValue := v
          respValid := true
          responses := s.responses ++ [⟨0#2, v⟩]
          agenda := rest }

/-- Rule R110: a word of READ_WORD's row, issued at IDLE, is answered in its issue step and two sequencer steps, with
exactly two port events, and the latch then holds the address. That it does is log entry 8 (PRESUMED: R24 marks it as
general knowledge, D13); the value read is the free value of log entry 3 (DESIGN CHOICE), the latch in its context. -/
def Obligations.ReadWordRun : Prop :=
  ∀ (s : State) (r : Nat) (w : CmdWord) (rest : List Turn), s.phase = .idle →
    s.agenda = .issue r w :: .sequencer :: .sequencer :: rest → w &&& 0xFFFFFF000000#48 = 0x000040000000#48 →
    ∃ addr v value : Dword,
      addr = configAddress (w.extractLsb' 16 8) (w.extractLsb' 11 5) (w.extractLsb' 8 3) (w.extractLsb' 0 8) ∧
      v = Config.portAnswer ⟨s.draws, 0xCFC#16, addr, s.history ++ [⟨.block, .write, 0xCF8#16, addr⟩]⟩ ∧
      value = 0#16 ++ (if w.extractLsb' 1 1 = 1#1 then v.extractLsb' 16 16 else v.extractLsb' 0 16) ∧
      RunsTo 1 s { s with req := w, issuer := some r, respValid := false, a := addr, phase := .addr1,
                          agenda := .sequencer :: .sequencer :: rest } ∧
      RunsTo 2 s { s with req := w, issuer := some r, respValid := false, a := addr, phase := .data1,
                          addressLatch := addr, history := s.history ++ [⟨.block, .write, 0xCF8#16, addr⟩],
                          agenda := .sequencer :: rest } ∧
      RunsTo 3 s
        { s with
          req := w
          issuer := some r
          a := addr
          d := v
          addressLatch := addr
          history := s.history ++ [⟨.block, .write, 0xCF8#16, addr⟩, ⟨.block, .read, 0xCFC#16, v⟩]
          draws := s.draws + 1
          respStatus := 0#2
          respValue := value
          respValid := true
          responses := s.responses ++ [⟨0#2, value⟩]
          agenda := rest }

/-- Rule R115: a word of WRITE_WORD's row, issued at IDLE, is answered in its issue step and two sequencer steps, with
exactly two port events, both writes, and the response value 0. That the latch holds the value written to 0xCF8 is log
entry 8 (PRESUMED: R24 marks it as general knowledge, D13); the zero extension of the data is log entry 11 (PRESUMED:
R116 marks it as general knowledge, D8). -/
def Obligations.WriteWordRun : Prop :=
  ∀ (s : State) (r : Nat) (w : CmdWord) (rest : List Turn), s.phase = .idle →
    s.agenda = .issue r w :: .sequencer :: .sequencer :: rest → w &&& 0x0000FF000000#48 = 0x000080000000#48 →
    ∃ addr v : Dword,
      addr = configAddress (w.extractLsb' 16 8) (w.extractLsb' 11 5) (w.extractLsb' 8 3) (w.extractLsb' 0 8) ∧
      v = 0#16 ++ w.extractLsb' 32 16 ∧
      RunsTo 1 s { s with req := w, issuer := some r, respValid := false, a := addr, phase := .addr1,
                          agenda := .sequencer :: .sequencer :: rest } ∧
      RunsTo 2 s { s with req := w, issuer := some r, respValid := false, a := addr, phase := .data1,
                          addressLatch := addr, history := s.history ++ [⟨.block, .write, 0xCF8#16, addr⟩],
                          agenda := .sequencer :: rest } ∧
      RunsTo 3 s
        { s with
          req := w
          issuer := some r
          a := addr
          addressLatch := addr
          history := s.history ++ [⟨.block, .write, 0xCF8#16, addr⟩, ⟨.block, .write, 0xCFC#16, v⟩]
          respStatus := 0#2
          respValue := 0#32
          respValid := true
          responses := s.responses ++ [⟨0#2, 0#32⟩]
          agenda := rest }

/-- Rule R131: a word of CHECK_VENDOR's row, issued at IDLE with no further turn planned. Absent: two sequencer steps, two
port events, response 0. Present: four sequencer steps, four port events, both address writes the same, response the high
half of the second read. That the latch holds the value written to 0xCF8 is log entry 8 (PRESUMED: R24 marks it as general
knowledge, D13); the values read are free values of log entry 3 (DESIGN CHOICE), the latch in their context. -/
def Obligations.CheckVendorRun : Prop :=
  ∀ (s : State) (r : Nat) (w : CmdWord), s.phase = .idle → s.agenda = [.issue r w] →
    w &&& 0xFFFFFF0007FF#48 = 0x0000C0000000#48 →
    ∃ addr v1 v2 : Dword,
      addr = configAddress (w.extractLsb' 16 8) (w.extractLsb' 11 5) 0#3 0x00#8 ∧
      v1 = Config.portAnswer ⟨s.draws, 0xCFC#16, addr, s.history ++ [⟨.block, .write, 0xCF8#16, addr⟩]⟩ ∧
      v2 = Config.portAnswer ⟨s.draws + 1, 0xCFC#16, addr, s.history ++
        [⟨.block, .write, 0xCF8#16, addr⟩, ⟨.block, .read, 0xCFC#16, v1⟩, ⟨.block, .write, 0xCF8#16, addr⟩]⟩ ∧
      (if v1.extractLsb' 0 16 = 0xFFFF#16 then RunsTo 3 s
        { s with
          req := w
          issuer := some r
          a := addr
          d := v1
          addressLatch := addr
          history := s.history ++ [⟨.block, .write, 0xCF8#16, addr⟩, ⟨.block, .read, 0xCFC#16, v1⟩]
          draws := s.draws + 1
          respStatus := 0#2
          respValue := 0#32
          respValid := true
          responses := s.responses ++ [⟨0#2, 0#32⟩]
          agenda := [] }
      else RunsTo 5 s
        { s with
          req := w
          issuer := some r
          a := addr
          d := v2
          addressLatch := addr
          history := s.history ++ [⟨.block, .write, 0xCF8#16, addr⟩, ⟨.block, .read, 0xCFC#16, v1⟩,
            ⟨.block, .write, 0xCF8#16, addr⟩, ⟨.block, .read, 0xCFC#16, v2⟩]
          draws := s.draws + 2
          respStatus := 0#2
          respValue := 0#16 ++ v2.extractLsb' 16 16
          respValid := true
          responses := s.responses ++ [⟨0#2, 0#16 ++ v2.extractLsb' 16 16⟩]
          agenda := [] })

/-- Rule R131: a CHECK_VENDOR that finds a device does to the ports exactly what `READ_WORD bus, slot, 0, 0x00` and then
`READ_WORD bus, slot, 0, 0x02` do: the same events with the same answers, and the response of the second. One that finds
none stops after what the first does, and answers 0. It rests on the model's choice (log entry 3) that the port target's
answer depends on nothing but the draws, the port, the latch and the history. -/
def Obligations.CheckVendorIsTwoReads : Prop :=
  ∀ (s : State) (r : Nat) (b : Bus) (sl : Slot), s.phase = .idle →
    ∃ t u1 u : State,
      RunsTo 5 { s with agenda := [.issue r (encode (.checkVendor b sl))] } t ∧
      RunsTo 3 { s with agenda := [.issue r (encode (.readWord b sl 0#3 0x00#8)),
        .issue r (encode (.readWord b sl 0#3 0x02#8))] } u1 ∧ RunsTo 3 u1 u ∧
      t.phase = .idle ∧ u1.phase = .idle ∧ u.phase = .idle ∧ t.respValid = true ∧ u1.respValid = true ∧
      u.respValid = true ∧ t.respStatus = u.respStatus ∧
      if u1.respValue = 0x0000FFFF#32 then
        t.history = u1.history ∧ t.addressLatch = u1.addressLatch ∧ t.draws = u1.draws ∧ t.a = u1.a ∧ t.d = u1.d ∧
        t.respValue = 0#32
      else
        t.history = u.history ∧ t.addressLatch = u.addressLatch ∧ t.draws = u.draws ∧ t.a = u.a ∧ t.d = u.d ∧
        t.respValue = u.respValue

/-! ### Issue, responses, other agents, reset -/

/-- Rules R21, R78: how a step runs a command. The word issued at IDLE is latched with RESP_VALID cleared and its issuer
noted, and its command's transition runs; a command in progress goes on by REQ in a sequencer turn and where no turn is
planned; at IDLE those leave everything else as it is. -/
def Obligations.StepRunsTheDecodedCommand : Prop :=
  ∀ (s : State) (r : Nat) (w : CmdWord) (i : Instr) (rest : List Turn),
    (s.phase = .idle → s.agenda = .issue r w :: rest → decode w = .legal i →
      step s = exec i { s with agenda := rest, req := w, respValid := false, issuer := some r }) ∧
    (s.phase ≠ .idle → s.agenda = .sequencer :: rest → decode s.req = .legal i →
      step s = exec i { s with agenda := rest }) ∧
    (s.phase ≠ .idle → s.agenda = [] → decode s.req = .legal i → step s = exec i s) ∧
    (s.phase = .idle → s.agenda = .sequencer :: rest → step s = .next { s with agenda := rest }) ∧
    (s.phase = .idle → s.agenda = [] → step s = .next s)

/-- Rule R78, in the form of the model's agenda (log entry 1): while a command is in progress an issue holds: the block
takes the step of the command in REQ, and the issue is still to come. -/
def Obligations.IssueHoldsWhileBusy : Prop :=
  ∀ (s t : State) (r : Nat) (w : CmdWord) (rest : List Turn), s.phase ≠ .idle → s.agenda = .issue r w :: rest →
    step s = step { s with agenda := .sequencer :: .issue r w :: rest } ∧
    (step s = .next t → t.req = s.req ∧ t.issuer = s.issuer ∧ t.agenda = s.agenda)

/-- Rules R75 and R142: the words that decode to ILLEGAL, and what issuing one does: REQ keeps the word, the response is
(1, 0), the phase stays IDLE, no port event, the latch unchanged. -/
def Obligations.IllegalCommandResponse : Prop :=
  ∀ (s : State) (r : Nat) (w : CmdWord) (rest : List Turn),
    ((∃ why, decode w = .illegal why) ↔
      (w.extractLsb' 24 6 ≠ 0#6 ∨ (w.extractLsb' 30 2 ≠ 0b10#2 ∧ w.extractLsb' 32 16 ≠ 0#16) ∨
        (w.extractLsb' 30 2 = 0b11#2 ∧ w.extractLsb' 0 11 ≠ 0#11))) ∧
    (s.phase = .idle → s.agenda = .issue r w :: rest → (∃ why, decode w = .illegal why) →
      step s = .next
        { s with
          req := w
          issuer := some r
          respStatus := 1#2
          respValue := 0#32
          respValid := true
          responses := s.responses ++ [⟨1#2, 0#32⟩]
          agenda := rest })

/-- Rule R143: a read of RESP_VALUE or RESP_STATUS while RESP_VALID is 0, or by a requester that is not the issuer, is the
fault ResponseNotValid, which records the reader; the issuer is recorded at each issue, legal or not. -/
def Obligations.UnreadyResponseFaults : Prop :=
  (∀ (s : State) (r : Nat) (g : RespReg) (rest : List Turn), s.agenda = .readResponse r g :: rest → g ≠ .valid →
    s.respValid = false ∨ s.issuer ≠ some r → step s = .fault (.responseNotValid r)) ∧
  (∀ (s : State) (r : Nat) (w : CmdWord) (rest : List Turn), s.agenda = .issue r w :: rest → s.phase = .idle →
    ∃ t, step s = .next t ∧ t.req = w ∧ t.issuer = some r)

/-- Rules R22, R141 and R143: the issuer reads RESP_VALUE and RESP_STATUS of a valid response, and a read changes no register
of the block. The model's choice (log entry 6, DESIGN CHOICE): what is read is recorded in `readings`, any requester reads
RESP_VALID at any time, and a reserved status in a valid response is a fault of a read of RESP_VALUE as of RESP_STATUS. -/
def Obligations.ResponseReads : Prop :=
  ∀ (s : State) (r : Nat) (rest : List Turn),
    (s.agenda = .readResponse r .value :: rest → s.respValid = true → s.issuer = some r →
      s.respStatus = 0#2 ∨ s.respStatus = 1#2 →
      step s = .next { s with agenda := rest, readings := s.readings ++ [⟨r, .value, s.respValue⟩] }) ∧
    (s.agenda = .readResponse r .status :: rest → s.respValid = true → s.issuer = some r →
      s.respStatus = 0#2 ∨ s.respStatus = 1#2 →
      step s = .next { s with agenda := rest, readings := s.readings ++ [⟨r, .status, 0#30 ++ s.respStatus⟩] }) ∧
    (s.agenda = .readResponse r .valid :: rest →
      step s = .next { s with agenda := rest
                              readings := s.readings ++ [⟨r, .valid, if s.respValid then 1#32 else 0#32⟩] }) ∧
    (∀ g, s.agenda = .readResponse r g :: rest → g ≠ .valid → s.respValid = true → s.issuer = some r →
      s.respStatus = 2#2 ∨ s.respStatus = 3#2 → step s = .fault (.reservedStatus s.respStatus))

/-- Rule R145: an access of another port master to 0xCF8 or 0xCFC while the block owns the pair is the fault
PortPairInterleaved, which records the event. -/
def Obligations.InterleavedAccessFaults : Prop :=
  ∀ (s : State) (m : Nat) (p : IoPort) (v : Dword) (rest : List Turn),
    s.phase ≠ .idle → p = 0xCF8#16 ∨ p = 0xCFC#16 →
    (s.agenda = .portWrite m p v :: rest → step s = .fault (.portPairInterleaved ⟨.other m, .write, p, v⟩)) ∧
    (s.agenda = .portRead m p :: rest →
      step s = .fault (.portPairInterleaved ⟨.other m, .read, p, s.answer p⟩))

/-- Rules R24, R55 and R57: an access of another port master at a free pair, or off the pair, is one event of the
history with its own agent; a write to 0xCF8 changes the latch (to the value written: log entry 8, PRESUMED), a read is
answered by a draw; no register of the block changes. -/
def Obligations.OtherMastersAreEvents : Prop :=
  ∀ (s : State) (m : Nat) (p : IoPort) (v : Dword) (rest : List Turn),
    s.phase = .idle ∨ (p ≠ 0xCF8#16 ∧ p ≠ 0xCFC#16) →
    (s.agenda = .portWrite m p v :: rest →
      step s = .next
        { s with
          agenda := rest
          addressLatch := if p = 0xCF8#16 then v else s.addressLatch
          history := s.history ++ [⟨.other m, .write, p, v⟩] }) ∧
    (s.agenda = .portRead m p :: rest →
      step s = .next
        { s with
          agenda := rest
          history := s.history ++ [⟨.other m, .read, p, s.answer p⟩]
          draws := s.draws + 1 })

/-- Rule R144, its bounds written out for each form of a call: a call with bus ≥ 256, slot ≥ 32, func ≥ 8, offset ≥ 256 or
data ≥ 0x10000 is refused with an offending argument, before any issue, whatever the phase; a call with none of these is at
IDLE the issue of a command with those very numbers as operands (and holds while the block is busy: WideCallsHoldWhileBusy). -/
def Obligations.WideCallsAreChecked : Prop :=
  ∀ (s : State) (r b sl f o d : Nat) (rest : List Turn) (c : WideCall) (bounds : List (Operand × Nat × Nat)),
    (c, bounds) ∈
      [(WideCall.encode b sl f o, [(Operand.bus, b, 256), (.slot, sl, 32), (.func, f, 8), (.offset, o, 256)]),
        (.readWord b sl f o, [(.bus, b, 256), (.slot, sl, 32), (.func, f, 8), (.offset, o, 256)]),
        (.writeWord b sl f o d,
          [(.bus, b, 256), (.slot, sl, 32), (.func, f, 8), (.offset, o, 256), (.data, d, 0x10000)]),
        (.checkVendor b sl, [(.bus, b, 256), (.slot, sl, 32)])] →
    s.agenda = .call r c :: rest →
    ((∃ arg value bound, (arg, value, bound) ∈ bounds ∧ bound ≤ value) →
      ∃ arg value bound, step s = .refused (.programmingError arg value) ∧ (arg, value, bound) ∈ bounds ∧
        bound ≤ value) ∧
    ((∀ arg value bound, (arg, value, bound) ∈ bounds → value < bound) →
      ∃ i : Instr, i.toCall = c ∧ (s.phase = .idle → step s = step { s with agenda := .issue r (encode i) :: rest }))

/-- Rules R78 and R144, in the form of the model's agenda (log entries 1 and 9): while a command is in progress a call in range
holds, as an issue does: the block takes the step of the command in REQ, and the call is still to come; from a coherent
state the command in progress is answered within four steps, and the call, never lost, is then issued with its very
numbers as operands. -/
def Obligations.WideCallsHoldWhileBusy : Prop :=
  ∀ (s : State) (r : Nat) (c : WideCall) (rest : List Turn), s.phase ≠ .idle → s.agenda = .call r c :: rest →
    (∀ p ∈ c.arguments, p.2 < p.1.bound) →
    step s = step { s with agenda := .sequencer :: .call r c :: rest } ∧
    (∀ t, step s = .next t → t.req = s.req ∧ t.issuer = s.issuer ∧ t.agenda = s.agenda) ∧
    (SequencerCoherent s → ∃ (n : Nat) (u : State) (i : Instr), n ≤ 4 ∧ RunsTo n s u ∧ u.phase = .idle ∧
      u.agenda = s.agenda ∧ u.req = s.req ∧ u.issuer = s.issuer ∧ u.respValid = true ∧
      u.responses = s.responses ++ [⟨0#2, u.respValue⟩] ∧
      i.toCall = c ∧ step u = step { u with agenda := .issue r (encode i) :: rest })

/-- Rule R160: reset makes the phase IDLE and RESP_VALID 0; a command in progress is abandoned without a response; the port
events performed stay, and no further one happens unless something else asks for it. -/
def Obligations.ResetAbandonsTheCommand : Prop :=
  ∀ (s : State) (rest : List Turn), s.agenda = .reset :: rest →
    ∃ t, step s = .next t ∧ t.phase = .idle ∧ t.respValid = false ∧ t.owned = false ∧ t.history = s.history ∧
      t.responses = s.responses ∧ t.readings = s.readings ∧ t.agenda = rest ∧
      (rest = [] → ∀ n, RunsTo n t t)

/-- Rules R30 and R161: after reset the block is IDLE with RESP_VALID 0 and does not own the pair, nothing has been observed,
and it accepts a command at once. -/
def Obligations.ResetStateAcceptsACommand : Prop :=
  State.reset.phase = .idle ∧ State.reset.respValid = false ∧ State.reset.owned = false ∧
  State.reset.history = [] ∧ State.reset.responses = [] ∧
  ∀ (r : Nat) (w : CmdWord), ∃ t, step { State.reset with agenda := [.issue r w] } = .next t ∧ t.req = w ∧ t.agenda = []

/-! ### Invariants of every step -/

/-- At reset no command is in progress, so the sequencer is coherent. -/
def Obligations.ResetIsCoherent : Prop :=
  SequencerCoherent State.reset ∧ ResponseLatchSound State.reset ∧ PortDiscipline State.reset

/-- Rules R21, R22, R29, R104: every step keeps REQ, the phase, A and the latch together: a busy phase is one the
latched command has, A is its address, and after the address write the latch holds A. That last clause is log entry 8
(PRESUMED: R24 marks it as general knowledge, D13). -/
def Obligations.SequencerStaysCoherent : Prop :=
  ∀ s t : State, SequencerCoherent s → step s = .next t → SequencerCoherent t

/-- Rules R22, R141, R143: every step keeps RESP_VALID 0 while a command is in progress, the latch the last response, every
response a legal status, and an issuer on record. -/
def Obligations.ResponseLatchStaysSound : Prop :=
  ∀ s t : State, ResponseLatchSound s → step s = .next t → ResponseLatchSound t

/-- Rules R59, R113, R163, R165: every step keeps the discipline of the port pair: each data-port access of the block comes
right after the block's write of a ConfigAddress, with no other access to the pair between, by whatever agent. -/
def Obligations.AddressBeforeDataIsKept : Prop :=
  ∀ s t : State, PortDiscipline s → step s = .next t → PortDiscipline t

/-- Rules R50, R55, R56, D3: a step appends at most one event; an event of the block is at 0xCF8 or 0xCFC and happens only
while a command is in progress. -/
def Obligations.OneEventPerStep : Prop :=
  ∀ s t : State, step s = .next t →
    t.history = s.history ∨ ∃ e, t.history = s.history ++ [e] ∧
      (e.agent = .block → (e.port = 0xCF8#16 ∨ e.port = 0xCFC#16) ∧ s.phase ≠ .idle)

/-- Rules R24 and R57: the address latch changes only by a write to 0xCF8, to the value written, or by reset. That the
new value is the one written is log entry 8 (PRESUMED: R24 marks it as general knowledge, D13). -/
def Obligations.LatchChangesOnlyByAddressWrites : Prop :=
  ∀ s t : State, step s = .next t →
    t.addressLatch = s.addressLatch ∨
    (∃ agent, t.history = s.history ++ [⟨agent, .write, 0xCF8#16, t.addressLatch⟩]) ∨
    ∃ rest, s.agenda = .reset :: rest

/-- Rules R60, R78: REQ and the issuer change only at IDLE or by reset: one command at a time. -/
def Obligations.RequestIsHeldToTheEnd : Prop :=
  ∀ s t : State, step s = .next t → s.phase ≠ .idle → (∀ rest, s.agenda ≠ .reset :: rest) →
    t.req = s.req ∧ t.issuer = s.issuer

/-- Rules R78 and R22: a command in progress ends only with its response, or by reset; until then nothing is answered. -/
def Obligations.OnlyResetCancels : Prop :=
  ∀ s t : State, step s = .next t → s.phase ≠ .idle → (∀ rest, s.agenda ≠ .reset :: rest) →
    (t.phase = .idle → ∃ v, t.responses = s.responses ++ [⟨0#2, v⟩] ∧ t.respStatus = 0#2 ∧ t.respValue = v ∧
      t.respValid = true) ∧
    (t.phase ≠ .idle → t.responses = s.responses ∧ t.respStatus = s.respStatus ∧ t.respValue = s.respValue ∧
      t.respValid = s.respValid)

/-- Rules R21, R22: at IDLE nothing but an issue (by a word or a call) or reset changes a register of the block: the response
latch keeps its value until the next command is issued. -/
def Obligations.IdleBlockKeepsItsRegisters : Prop :=
  ∀ s t : State, step s = .next t → s.phase = .idle →
    (∀ u rest, s.agenda = u :: rest → u ≠ .reset ∧ (∀ r w, u ≠ .issue r w) ∧ ∀ r c, u ≠ .call r c) →
    t.phase = .idle ∧ t.req = s.req ∧ t.a = s.a ∧ t.d = s.d ∧ t.respValue = s.respValue ∧
    t.respStatus = s.respStatus ∧ t.respValid = s.respValid ∧ t.responses = s.responses ∧ t.issuer = s.issuer

/-- Rules R140, R146, R148: from a sound state a step faults only as R143 or R145 says: the turn is a read of RESP_VALUE or
RESP_STATUS that is not ready or not the reader's, or another master's access to the pair while it is owned, and the fault
records that reader or that access. So no command, operand or value read ever faults: not an issue, a call, a sequencer's
step, a read of RESP_VALID or a reset. -/
def Obligations.OnlyTheSpecsFaults : Prop :=
  ∀ s : State, SequencerCoherent s → ResponseLatchSound s → ∀ x, step s = .fault x →
    (∃ r g rest, s.agenda = .readResponse r g :: rest ∧ g ≠ .valid ∧ x = .responseNotValid r ∧
      (s.respValid = false ∨ s.issuer ≠ some r)) ∨
    (s.phase ≠ .idle ∧ ∃ m p rest, (p = 0xCF8#16 ∨ p = 0xCFC#16) ∧
      ((∃ v, s.agenda = .portWrite m p v :: rest ∧ x = .portPairInterleaved ⟨.other m, .write, p, v⟩) ∨
        (s.agenda = .portRead m p :: rest ∧ x = .portPairInterleaved ⟨.other m, .read, p, s.answer p⟩)))

/-- Rule R171: a command in progress reaches IDLE, answered, after at most four steps of the block. That the block steps where
no turn is planned is the model's choice (log entry 1, DESIGN CHOICE). -/
def Obligations.CommandsComplete : Prop :=
  ∀ s : State, SequencerCoherent s → s.phase ≠ .idle → s.agenda = [] →
    ∃ n t, n ≤ 4 ∧ RunsTo n s t ∧ t.phase = .idle ∧ t.respValid = true ∧ t.respStatus = 0#2 ∧
      t.responses = s.responses ++ [⟨0#2, t.respValue⟩]

/-- Rules R60, R75, R78, R171: whatever words requesters have queued, legal or not, and whatever the port target answers,
the block answers every one, in order, and ends IDLE, within five steps a command. Each word gets its own response: there
is a moment when REQ is the word, the issuer its requester, the words before it and no later one have been answered, and
its response, OK or (1, 0) as the word decodes, is in the latch and is the queue's response of that place. A command in
progress at the start is answered first. The queue, its order, and that a held issue stays first with only the block
stepping meanwhile are the model's choice (log entry 1, DESIGN CHOICE: R60 leaves the order open, and other agents may act
then on the hardware). -/
def Obligations.EveryQueuedCommandIsAnswered : Prop :=
  ∀ (queue : List (Nat × CmdWord)) (s : State), SequencerCoherent s → s.agenda = queue.map (fun q => Turn.issue q.1 q.2) →
    ∃ (n : Nat) (t : State) (first answers : List Response),
      n ≤ 4 + 5 * queue.length ∧ RunsTo n s t ∧ t.phase = .idle ∧ t.agenda = [] ∧
      t.responses = s.responses ++ first ++ answers ∧
      first.length = (if s.owned then 1 else 0) ∧ answers.length = queue.length ∧
      ∀ (k r : Nat) (w : CmdWord), queue[k]? = some (r, w) →
        ∃ (m : Nat) (u : State), m ≤ n ∧ m ≤ 4 + 5 * (k + 1) ∧ RunsTo m s u ∧ u.phase = .idle ∧ u.req = w ∧
          u.issuer = some r ∧ u.respValid = true ∧
          u.responses = s.responses ++ first ++ answers.take (k + 1) ∧
          u.agenda = (queue.drop (k + 1)).map (fun q => Turn.issue q.1 q.2) ∧
          answers[k]? = some ⟨u.respStatus, u.respValue⟩ ∧
          (∀ i, decode w = .legal i → u.respStatus = 0#2) ∧
          (∀ why, decode w = .illegal why → u.respStatus = 1#2 ∧ u.respValue = 0#32)
end

