-- ==== Sys2Proof/Laws/WellFormed.lean ====
section
/-! SUPPORT. The range check of a call in wide numbers, as a statement about its arguments (60_exceptions.md rule R144). -/

namespace Sys2Proof

/-- A call is well formed when each argument is in its range. -/
theorem WideCall.wellFormed_iff (c : WideCall) : c.wellFormed = true ↔ ∀ p ∈ c.arguments, p.2 < p.1.bound := by
  simp [WideCall.wellFormed]

/-- Every command's operands are in range (R71). -/
theorem Instr.wellFormed_all (i : Instr) : i.wellFormed = true := by
  rw [Instr.wellFormed, WideCall.wellFormed_iff]
  cases i <;>
    simp only [Instr.toCall, WideCall.arguments, List.forall_mem_cons, Operand.bound, List.not_mem_nil, false_implies,
      implies_true, and_true] <;>
    bv_omega

/-- The first argument found out of range is an argument out of range. -/
theorem checkCall_outOfRange {c : WideCall} {arg : Operand} {v : Nat} (h : checkCall c = .outOfRange arg v) :
    (arg, v) ∈ c.arguments ∧ arg.bound ≤ v := by
  unfold checkCall at h
  split at h
  · rename_i p hp
    cases h
    exact ⟨List.mem_of_find?_eq_some hp, by simpa using List.find?_some hp⟩
  · cases h

/-- A call in range is checked to its own command. -/
theorem checkCall_inRange {c : WideCall} {i : Instr} (h : checkCall c = .inRange i) :
    c.wellFormed = true ∧ i = narrowCall c := by
  unfold checkCall at h
  split at h
  · cases h
  · rename_i hn
    cases h
    refine ⟨(WideCall.wellFormed_iff c).2 fun p hp => ?_, rfl⟩
    simpa using List.find?_eq_none.1 hn p hp

/-- Narrowing a call in range loses nothing. -/
theorem narrowCall_toCall {c : WideCall} (h : ∀ p ∈ c.arguments, p.2 < p.1.bound) : (narrowCall c).toCall = c := by
  cases c <;> simp [WideCall.arguments, Operand.bound] at h <;> simp [narrowCall, Instr.toCall] <;> omega

/-- The check of a call in range gives the command with its very numbers (R144). -/
theorem checkCall_of_inRange {c : WideCall} (h : ∀ p ∈ c.arguments, p.2 < p.1.bound) :
    checkCall c = .inRange (narrowCall c) := by
  unfold checkCall
  rw [List.find?_eq_none.2 fun p hp => by simpa using h p hp]

/-- The check of a call out of range refuses it (R144). -/
theorem checkCall_of_outOfRange {c : WideCall} (h : ∃ p ∈ c.arguments, p.1.bound ≤ p.2) :
    ∃ arg v, checkCall c = .outOfRange arg v ∧ (arg, v) ∈ c.arguments ∧ arg.bound ≤ v := by
  obtain ⟨p, hp, hb⟩ := h
  cases hc : checkCall c with
  | inRange i => exact absurd ((WideCall.wellFormed_iff c).1 (checkCall_inRange hc).1 p hp) (Nat.not_lt.2 hb)
  | outOfRange arg v => exact ⟨arg, v, rfl, checkCall_outOfRange hc⟩

end Sys2Proof
end

