-- ==== Sys2Proof/Laws/Assembler.lean ====
section
/-! SUPPORT. What the parts of the assembler read (30_encoding.md rule R77): numerals, operand lists, mnemonics. -/

namespace Sys2Proof.Machine

/-- A character that may stand in a numeral: no blank, no comma. -/
def isNumeralChar (c : Char) : Bool := !isBlank c && c != ','

/-- A digit, in either case, is read as its value, and may stand in a numeral. -/
theorem IsDigitOf.read {d : Nat} {c : Char} (h : IsDigitOf d c) : digitValue c = some d ∧ isNumeralChar c = true := by
  have lt : d < 16 := by
    rcases h with h | h <;> exact (List.getElem?_eq_some_iff.1 h).1
  rcases h with h | h <;> interval_cases d <;> simp at h <;> subst h <;> decide

/-- Digits below the base are read as the number they spell, on top of what was read before them. -/
theorem digitsValue_digits {base : Nat} {ds : List Nat} {cs : List Char} (h : List.Forall₂ IsDigitOf ds cs)
    (lt : ∀ d ∈ ds, d < base) (acc : Nat) :
    digitsValue base acc cs = some (acc * base ^ ds.length + Nat.ofDigits base ds.reverse) := by
  induction h generalizing acc with
  | nil => simp [digitsValue]
  | @cons d c ds cs hd hs ih =>
    simp only [digitsValue, hd.read.1, lt d (by simp), if_true]
    rw [ih (fun e he => lt e (by simp [he]))]
    simp only [List.reverse_cons, Nat.ofDigits_append, Nat.ofDigits_singleton, List.length_reverse, List.length_cons,
      Option.some.injEq]
    ring

/-- Digits that spell a number are read as it. -/
theorem digitsValue_of_isNumeralIn {base n : Nat} {cs : List Char} (h : IsNumeralIn base n cs) :
    digitsValue base 0 cs = some n := by
  obtain ⟨ds, _, lt, rfl, hs⟩ := h
  simpa using digitsValue_digits hs lt 0

/-- A numeral in a base has characters, none of them a blank or a comma. -/
theorem IsNumeralIn.chars {base n : Nat} {cs : List Char} (h : IsNumeralIn base n cs) :
    cs ≠ [] ∧ ∀ c ∈ cs, isNumeralChar c = true := by
  obtain ⟨ds, ne, lt, spell, hs⟩ := h
  refine ⟨fun e => ne (by subst e; cases hs; rfl), fun c hc => ?_⟩
  clear ne lt spell
  induction hs with
  | nil => cases hc
  | cons hd _ ih => exact (List.mem_cons.1 hc).elim (fun e => e ▸ hd.read.2) ih

/-- A text that is read in base 10 is not taken for hexadecimal. -/
theorem numeralValue_decimal {cs : List Char} {n : Nat} (ne : cs ≠ []) (h : digitsValue 10 0 cs = some n) :
    numeralValue cs = some n := by
  unfold numeralValue
  split
  · exact absurd rfl ne
  · simp [digitsValue, digitValue] at h
  · simp [digitsValue, digitValue] at h
  · exact h

/-- A numeral is read as its number, whole (R77). -/
theorem numeralValue_of_isNumeralOf {n : Nat} {cs : List Char} (h : IsNumeralOf n cs) : numeralValue cs = some n := by
  rcases h with h | ⟨hex, rfl, h⟩
  · exact numeralValue_decimal h.chars.1 (digitsValue_of_isNumeralIn h)
  · have v := digitsValue_of_isNumeralIn h
    obtain ⟨c, cs, rfl⟩ := List.exists_cons_of_ne_nil h.chars.1
    exact v

/-- A numeral has characters, none of them a blank or a comma. -/
theorem IsNumeralOf.chars {n : Nat} {cs : List Char} (h : IsNumeralOf n cs) :
    cs ≠ [] ∧ ∀ c ∈ cs, isNumeralChar c = true := by
  rcases h with h | ⟨hex, rfl, h⟩
  · exact h.chars
  · exact ⟨List.cons_ne_nil _ _, by simpa using ⟨by decide, by decide, h.chars.2⟩⟩

theorem dropWhile_blank_of_all {cs : List Char} (h : ∀ c ∈ cs, isNumeralChar c = true) : cs.dropWhile isBlank = cs := by
  cases cs with
  | nil => rfl
  | cons c cs =>
    have := h c (by simp)
    simp [isNumeralChar] at this
    simp [this]

theorem trimBlanks_of_all {cs : List Char} (h : ∀ c ∈ cs, isNumeralChar c = true) : trimBlanks cs = cs := by
  rw [trimBlanks, dropWhile_blank_of_all h, dropWhile_blank_of_all (by simpa using h), List.reverse_reverse]

theorem trimBlanks_blank (cs : List Char) : trimBlanks (' ' :: cs) = trimBlanks cs := by
  simp [trimBlanks, isBlank]

/-- A text that begins with no blank is not trimmed away. -/
theorem trimBlanks_ne_nil {c : Char} (h : isBlank c = false) (cs : List Char) : trimBlanks (c :: cs) ≠ [] := by
  intro e
  have all : ∀ d ∈ (c :: cs).reverse, isBlank d = true := by
    simpa [trimBlanks, h] using e
  simpa [h] using all c (by simp)

theorem splitCommas_ne_nil (cs : List Char) : splitCommas cs ≠ [] := by
  cases cs with
  | nil => simp [splitCommas]
  | cons c cs =>
    simp only [splitCommas]
    split
    · simp
    · split <;> simp

/-- A text without commas is one part. -/
theorem splitCommas_of_all {cs : List Char} (h : ∀ c ∈ cs, c ≠ ',') : splitCommas cs = [cs] := by
  induction cs with
  | nil => rfl
  | cons c cs ih => simp [splitCommas, ih fun d hd => h d (by simp [hd]), h c (by simp)]

/-- The part before the first comma is the first part. -/
theorem splitCommas_append {cs : List Char} (h : ∀ c ∈ cs, c ≠ ',') (ds : List Char) :
    splitCommas (cs ++ ',' :: ds) = cs :: splitCommas ds := by
  induction cs with
  | nil =>
    simp only [List.nil_append, splitCommas]
    split
    · exact absurd ‹_› (splitCommas_ne_nil ds)
    · rename_i e
      simp [e]
  | cons c cs ih => simp [splitCommas, ih fun d hd => h d (by simp [hd]), h c (by simp)]

/-- The parts of numerals joined by a comma and a blank are read as their numbers, in order. -/
theorem mapM_splitCommas_intercalate {n : Nat} {ns : List Nat} {cs : List Char} {css : List (List Char)}
    (h : IsNumeralOf n cs) (hs : List.Forall₂ IsNumeralOf ns css) (pre : List Char) (hpre : pre = [] ∨ pre = [' ']) :
    (splitCommas (pre ++ List.intercalate [',', ' '] (cs :: css))).mapM (fun part => numeralValue (trimBlanks part)) =
      some (n :: ns) := by
  have comma : ∀ c ∈ pre ++ cs, c ≠ ',' := by
    intro c hc
    rcases List.mem_append.1 hc with hc | hc
    · rcases hpre with rfl | rfl
      · cases hc
      · rw [List.mem_singleton.1 hc]
        decide
    · have := h.chars.2 c hc
      simp [isNumeralChar] at this
      exact this.2
  have value : numeralValue (trimBlanks (pre ++ cs)) = some n := by
    rcases hpre with rfl | rfl
    · rw [List.nil_append, trimBlanks_of_all h.chars.2, numeralValue_of_isNumeralOf h]
    · rw [List.singleton_append, trimBlanks_blank, trimBlanks_of_all h.chars.2, numeralValue_of_isNumeralOf h]
  induction hs generalizing n cs pre with
  | nil => simp [List.intercalate, splitCommas_of_all comma, value]
  | @cons m cs' ms css' hm hms ih =>
    have rest := ih hm [' '] (.inr rfl) (by
      intro c hc
      rcases List.mem_append.1 hc with hc | hc
      · rw [List.mem_singleton.1 hc]
        decide
      · have := hm.chars.2 c hc
        simp [isNumeralChar] at this
        exact this.2) (by
      rw [List.singleton_append, trimBlanks_blank, trimBlanks_of_all hm.chars.2, numeralValue_of_isNumeralOf hm])
    have e : pre ++ List.intercalate [',', ' '] (cs :: cs' :: css') =
        (pre ++ cs) ++ ',' :: ([' '] ++ List.intercalate [',', ' '] (cs' :: css')) := by
      simp [List.intercalate]
    rw [e, splitCommas_append comma, List.mapM_cons, value, rest]
    rfl

/-- Numerals joined by a comma and a blank, after a blank, are the operand text of their numbers. -/
theorem operandValues_numerals {n : Nat} {ns : List Nat} {css : List (List Char)}
    (hs : List.Forall₂ IsNumeralOf (n :: ns) css) :
    operandValues (' ' :: List.intercalate [',', ' '] css) = some (n :: ns) := by
  cases hs with
  | @cons _ cs _ css h hs =>
    have ne : trimBlanks (' ' :: List.intercalate [',', ' '] (cs :: css)) ≠ [] := by
      obtain ⟨c, cs', rfl⟩ := List.exists_cons_of_ne_nil h.chars.1
      have hc := h.chars.2 c (by simp)
      simp only [isNumeralChar, Bool.and_eq_true, Bool.not_eq_true'] at hc
      have e : List.intercalate [',', ' '] ((c :: cs') :: css) =
          c :: List.intercalate [',', ' '] (cs' :: css) := by
        cases css <;> simp [List.intercalate]
      rw [trimBlanks_blank, e]
      exact trimBlanks_ne_nil hc.1 _
    rw [operandValues, if_neg ne]
    exact mapM_splitCommas_intercalate h hs [' '] (.inr rfl)

/-- A name without blanks, then a blank: the mnemonic's text is the name, the operands' text what follows. -/
theorem lineTexts {name : List Char} (ne : name ≠ []) (h : ∀ c ∈ name, isBlank c = false) (rest : List Char) :
    mnemonicText (name ++ ' ' :: rest) = name ∧ operandText (name ++ ' ' :: rest) = ' ' :: rest := by
  have drop : (name ++ ' ' :: rest).dropWhile isBlank = name ++ ' ' :: rest := by
    cases name with
    | nil => exact absurd rfl ne
    | cons c cs => simp [h c (by simp)]
  have blank : isBlank ' ' = true := by decide
  rw [mnemonicText, operandText, drop]
  constructor
  · rw [List.takeWhile_append_of_pos (by simpa using h)]
    simp [blank]
  · rw [List.dropWhile_append_of_pos (by simpa using h)]
    simp [blank]

/-- Every spelling of the table names its own mnemonic, and has characters, none of them a blank. -/
theorem mnemonicTable_spelling : ∀ row ∈ mnemonicTable, mnemonicOf row.1.toList = some row.2 ∧ row.1.toList ≠ [] ∧
    ∀ c ∈ row.1.toList, isBlank c = false := by
  intro row hr
  simp only [mnemonicTable, List.mem_cons, List.not_mem_nil, or_false] at hr
  rcases hr with rfl | rfl | rfl | rfl | rfl | rfl | rfl | rfl | rfl | rfl | rfl | rfl | rfl <;>
    exact ⟨by decide, by decide, by simp [isBlank]⟩

/-- A name that is found is a spelling of the table. -/
theorem mnemonicOf_some {name : List Char} {m : Mnemonic} (h : mnemonicOf name = some m) :
    ∃ row ∈ mnemonicTable, row.1.toList = name ∧ row.2 = m := by
  unfold mnemonicOf at h
  obtain ⟨row, hf, rfl⟩ := Option.map_eq_some_iff.1 h
  exact ⟨row, List.mem_of_find?_eq_some hf, by simpa using List.find?_some hf, rfl⟩

/-- Each of R77's lines is a spelling of the table with its expansion. -/
theorem syntaxRows_call {b s f o d : Nat} {row : SyntaxRow} (h : row ∈ syntaxRows b s f o d) :
    ∃ m n ns, (row.name, m) ∈ mnemonicTable ∧ callOf m row.operands = some row.call ∧ row.operands = n :: ns := by
  simp only [syntaxRows, List.mem_cons, List.not_mem_nil, or_false] at h
  rcases h with rfl | rfl | rfl | rfl | rfl | rfl | rfl | rfl | rfl | rfl | rfl | rfl | rfl <;>
    exact ⟨_, _, _, by simp only [mnemonicTable, List.mem_cons, Prod.mk.injEq]; simp; rfl, rfl, rfl⟩

/-- A spelling of the table whose expansion takes the numbers is one of R77's lines. -/
theorem callOf_syntaxRows {row : String × Mnemonic} (hr : row ∈ mnemonicTable) {values : List Nat} {c : WideCall}
    (hc : callOf row.2 values = some c) : ∃ b s f o d, (⟨row.1, values, c⟩ : SyntaxRow) ∈ syntaxRows b s f o d := by
  simp only [mnemonicTable, List.mem_cons, List.not_mem_nil, or_false] at hr
  rcases hr with rfl | rfl | rfl | rfl | rfl | rfl | rfl | rfl | rfl | rfl | rfl | rfl | rfl <;>
    simp only at hc <;> unfold callOf at hc <;> split at hc <;> cases hc <;> simp_all [syntaxRows]

end Sys2Proof.Machine
end

