-- ==== Sys2Proof/Laws/Decode.lean ====
section
/-! SUPPORT. The fields of a packed command word are the values it was packed with (30_encoding.md rules R71, R72). -/

namespace Sys2Proof

variable (d : Word) (op : BitVec 2) (b : Bus) (s : Slot) (f : Func) (o : Offset)

theorem dataField_packWord : dataField (packWord d op b s f o) = d := by
  apply BitVec.eq_of_getLsbD_eq
  intro k hk
  simp only [dataField, packWord, BitVec.getLsbD_extractLsb', BitVec.getLsbD_append]
  interval_cases k <;> simp

theorem opField_packWord : opField (packWord d op b s f o) = op := by
  apply BitVec.eq_of_getLsbD_eq
  intro k hk
  simp only [opField, packWord, BitVec.getLsbD_extractLsb', BitVec.getLsbD_append]
  interval_cases k <;> simp

theorem rsvField_packWord : rsvField (packWord d op b s f o) = 0#6 := by
  apply BitVec.eq_of_getLsbD_eq
  intro k hk
  simp only [rsvField, packWord, BitVec.getLsbD_extractLsb', BitVec.getLsbD_append]
  interval_cases k <;> simp

theorem busField_packWord : busField (packWord d op b s f o) = b := by
  apply BitVec.eq_of_getLsbD_eq
  intro k hk
  simp only [busField, packWord, BitVec.getLsbD_extractLsb', BitVec.getLsbD_append]
  interval_cases k <;> simp

theorem slotField_packWord : slotField (packWord d op b s f o) = s := by
  apply BitVec.eq_of_getLsbD_eq
  intro k hk
  simp only [slotField, packWord, BitVec.getLsbD_extractLsb', BitVec.getLsbD_append]
  interval_cases k <;> simp

theorem funcField_packWord : funcField (packWord d op b s f o) = f := by
  apply BitVec.eq_of_getLsbD_eq
  intro k hk
  simp only [funcField, packWord, BitVec.getLsbD_extractLsb', BitVec.getLsbD_append]
  interval_cases k <;> simp

theorem offsetField_packWord : offsetField (packWord d op b s f o) = o := by
  apply BitVec.eq_of_getLsbD_eq
  intro k hk
  simp only [offsetField, packWord, BitVec.getLsbD_extractLsb', BitVec.getLsbD_append]
  interval_cases k <;> simp

theorem funcOffsetBits_packWord : funcOffsetBits (packWord d op b s f o) = f ++ o := by
  apply BitVec.eq_of_getLsbD_eq
  intro k hk
  simp only [funcOffsetBits, packWord, BitVec.getLsbD_extractLsb', BitVec.getLsbD_append]
  interval_cases k <;> simp

end Sys2Proof
end

