-- ==== Sys2Proof/Laws/State.lean ====
section
/-! SUPPORT. One lemma per field per update of the state, each true by rfl; the composed operations as their parts. -/

namespace Sys2Proof.Machine

variable (s : State)

@[simp] theorem State.goto_phase (p : Phase) : (s.goto p).phase = p := rfl
@[simp] theorem State.goto_req (p : Phase) : (s.goto p).req = s.req := rfl
@[simp] theorem State.goto_a (p : Phase) : (s.goto p).a = s.a := rfl
@[simp] theorem State.goto_d (p : Phase) : (s.goto p).d = s.d := rfl
@[simp] theorem State.goto_respValue (p : Phase) : (s.goto p).respValue = s.respValue := rfl
@[simp] theorem State.goto_respStatus (p : Phase) : (s.goto p).respStatus = s.respStatus := rfl
@[simp] theorem State.goto_respValid (p : Phase) : (s.goto p).respValid = s.respValid := rfl
@[simp] theorem State.goto_addressLatch (p : Phase) : (s.goto p).addressLatch = s.addressLatch := rfl
@[simp] theorem State.goto_history (p : Phase) : (s.goto p).history = s.history := rfl
@[simp] theorem State.goto_responses (p : Phase) : (s.goto p).responses = s.responses := rfl
@[simp] theorem State.goto_issuer (p : Phase) : (s.goto p).issuer = s.issuer := rfl
@[simp] theorem State.goto_readings (p : Phase) : (s.goto p).readings = s.readings := rfl
@[simp] theorem State.goto_draws (p : Phase) : (s.goto p).draws = s.draws := rfl
@[simp] theorem State.goto_agenda (p : Phase) : (s.goto p).agenda = s.agenda := rfl

@[simp] theorem State.setA_phase (v : Dword) : (s.setA v).phase = s.phase := rfl
@[simp] theorem State.setA_req (v : Dword) : (s.setA v).req = s.req := rfl
@[simp] theorem State.setA_a (v : Dword) : (s.setA v).a = v := rfl
@[simp] theorem State.setA_d (v : Dword) : (s.setA v).d = s.d := rfl
@[simp] theorem State.setA_respValue (v : Dword) : (s.setA v).respValue = s.respValue := rfl
@[simp] theorem State.setA_respStatus (v : Dword) : (s.setA v).respStatus = s.respStatus := rfl
@[simp] theorem State.setA_respValid (v : Dword) : (s.setA v).respValid = s.respValid := rfl
@[simp] theorem State.setA_addressLatch (v : Dword) : (s.setA v).addressLatch = s.addressLatch := rfl
@[simp] theorem State.setA_history (v : Dword) : (s.setA v).history = s.history := rfl
@[simp] theorem State.setA_responses (v : Dword) : (s.setA v).responses = s.responses := rfl
@[simp] theorem State.setA_issuer (v : Dword) : (s.setA v).issuer = s.issuer := rfl
@[simp] theorem State.setA_readings (v : Dword) : (s.setA v).readings = s.readings := rfl
@[simp] theorem State.setA_draws (v : Dword) : (s.setA v).draws = s.draws := rfl
@[simp] theorem State.setA_agenda (v : Dword) : (s.setA v).agenda = s.agenda := rfl

@[simp] theorem State.setD_phase (v : Dword) : (s.setD v).phase = s.phase := rfl
@[simp] theorem State.setD_req (v : Dword) : (s.setD v).req = s.req := rfl
@[simp] theorem State.setD_a (v : Dword) : (s.setD v).a = s.a := rfl
@[simp] theorem State.setD_d (v : Dword) : (s.setD v).d = v := rfl
@[simp] theorem State.setD_respValue (v : Dword) : (s.setD v).respValue = s.respValue := rfl
@[simp] theorem State.setD_respStatus (v : Dword) : (s.setD v).respStatus = s.respStatus := rfl
@[simp] theorem State.setD_respValid (v : Dword) : (s.setD v).respValid = s.respValid := rfl
@[simp] theorem State.setD_addressLatch (v : Dword) : (s.setD v).addressLatch = s.addressLatch := rfl
@[simp] theorem State.setD_history (v : Dword) : (s.setD v).history = s.history := rfl
@[simp] theorem State.setD_responses (v : Dword) : (s.setD v).responses = s.responses := rfl
@[simp] theorem State.setD_issuer (v : Dword) : (s.setD v).issuer = s.issuer := rfl
@[simp] theorem State.setD_readings (v : Dword) : (s.setD v).readings = s.readings := rfl
@[simp] theorem State.setD_draws (v : Dword) : (s.setD v).draws = s.draws := rfl
@[simp] theorem State.setD_agenda (v : Dword) : (s.setD v).agenda = s.agenda := rfl

@[simp] theorem State.setAgenda_phase (ts : List Turn) : (s.setAgenda ts).phase = s.phase := rfl
@[simp] theorem State.setAgenda_req (ts : List Turn) : (s.setAgenda ts).req = s.req := rfl
@[simp] theorem State.setAgenda_a (ts : List Turn) : (s.setAgenda ts).a = s.a := rfl
@[simp] theorem State.setAgenda_d (ts : List Turn) : (s.setAgenda ts).d = s.d := rfl
@[simp] theorem State.setAgenda_respValue (ts : List Turn) : (s.setAgenda ts).respValue = s.respValue := rfl
@[simp] theorem State.setAgenda_respStatus (ts : List Turn) : (s.setAgenda ts).respStatus = s.respStatus := rfl
@[simp] theorem State.setAgenda_respValid (ts : List Turn) : (s.setAgenda ts).respValid = s.respValid := rfl
@[simp] theorem State.setAgenda_addressLatch (ts : List Turn) : (s.setAgenda ts).addressLatch = s.addressLatch := rfl
@[simp] theorem State.setAgenda_history (ts : List Turn) : (s.setAgenda ts).history = s.history := rfl
@[simp] theorem State.setAgenda_responses (ts : List Turn) : (s.setAgenda ts).responses = s.responses := rfl
@[simp] theorem State.setAgenda_issuer (ts : List Turn) : (s.setAgenda ts).issuer = s.issuer := rfl
@[simp] theorem State.setAgenda_readings (ts : List Turn) : (s.setAgenda ts).readings = s.readings := rfl
@[simp] theorem State.setAgenda_draws (ts : List Turn) : (s.setAgenda ts).draws = s.draws := rfl
@[simp] theorem State.setAgenda_agenda (ts : List Turn) : (s.setAgenda ts).agenda = ts := rfl

@[simp] theorem State.respond_phase (c : BitVec 2) (v : Dword) : (s.respond c v).phase = s.phase := rfl
@[simp] theorem State.respond_req (c : BitVec 2) (v : Dword) : (s.respond c v).req = s.req := rfl
@[simp] theorem State.respond_a (c : BitVec 2) (v : Dword) : (s.respond c v).a = s.a := rfl
@[simp] theorem State.respond_d (c : BitVec 2) (v : Dword) : (s.respond c v).d = s.d := rfl
@[simp] theorem State.respond_respValue (c : BitVec 2) (v : Dword) : (s.respond c v).respValue = v := rfl
@[simp] theorem State.respond_respStatus (c : BitVec 2) (v : Dword) : (s.respond c v).respStatus = c := rfl
@[simp] theorem State.respond_respValid (c : BitVec 2) (v : Dword) : (s.respond c v).respValid = true := rfl
@[simp] theorem State.respond_addressLatch (c : BitVec 2) (v : Dword) : (s.respond c v).addressLatch = s.addressLatch := rfl
@[simp] theorem State.respond_history (c : BitVec 2) (v : Dword) : (s.respond c v).history = s.history := rfl
@[simp] theorem State.respond_responses (c : BitVec 2) (v : Dword) : (s.respond c v).responses = s.responses ++ [⟨c, v⟩] := rfl
@[simp] theorem State.respond_issuer (c : BitVec 2) (v : Dword) : (s.respond c v).issuer = s.issuer := rfl
@[simp] theorem State.respond_readings (c : BitVec 2) (v : Dword) : (s.respond c v).readings = s.readings := rfl
@[simp] theorem State.respond_draws (c : BitVec 2) (v : Dword) : (s.respond c v).draws = s.draws := rfl
@[simp] theorem State.respond_agenda (c : BitVec 2) (v : Dword) : (s.respond c v).agenda = s.agenda := rfl

@[simp] theorem State.latchRequest_phase (r : Nat) (w : CmdWord) : (s.latchRequest r w).phase = s.phase := rfl
@[simp] theorem State.latchRequest_req (r : Nat) (w : CmdWord) : (s.latchRequest r w).req = w := rfl
@[simp] theorem State.latchRequest_a (r : Nat) (w : CmdWord) : (s.latchRequest r w).a = s.a := rfl
@[simp] theorem State.latchRequest_d (r : Nat) (w : CmdWord) : (s.latchRequest r w).d = s.d := rfl
@[simp] theorem State.latchRequest_respValue (r : Nat) (w : CmdWord) : (s.latchRequest r w).respValue = s.respValue := rfl
@[simp] theorem State.latchRequest_respStatus (r : Nat) (w : CmdWord) : (s.latchRequest r w).respStatus = s.respStatus := rfl
@[simp] theorem State.latchRequest_respValid (r : Nat) (w : CmdWord) : (s.latchRequest r w).respValid = false := rfl
@[simp] theorem State.latchRequest_addressLatch (r : Nat) (w : CmdWord) : (s.latchRequest r w).addressLatch = s.addressLatch := rfl
@[simp] theorem State.latchRequest_history (r : Nat) (w : CmdWord) : (s.latchRequest r w).history = s.history := rfl
@[simp] theorem State.latchRequest_responses (r : Nat) (w : CmdWord) : (s.latchRequest r w).responses = s.responses := rfl
@[simp] theorem State.latchRequest_issuer (r : Nat) (w : CmdWord) : (s.latchRequest r w).issuer = some r := rfl
@[simp] theorem State.latchRequest_readings (r : Nat) (w : CmdWord) : (s.latchRequest r w).readings = s.readings := rfl
@[simp] theorem State.latchRequest_draws (r : Nat) (w : CmdWord) : (s.latchRequest r w).draws = s.draws := rfl
@[simp] theorem State.latchRequest_agenda (r : Nat) (w : CmdWord) : (s.latchRequest r w).agenda = s.agenda := rfl

@[simp] theorem State.ioWrite32_phase (g : PortAgent) (p : IoPort) (v : Dword) : (s.ioWrite32 g p v).phase = s.phase := rfl
@[simp] theorem State.ioWrite32_req (g : PortAgent) (p : IoPort) (v : Dword) : (s.ioWrite32 g p v).req = s.req := rfl
@[simp] theorem State.ioWrite32_a (g : PortAgent) (p : IoPort) (v : Dword) : (s.ioWrite32 g p v).a = s.a := rfl
@[simp] theorem State.ioWrite32_d (g : PortAgent) (p : IoPort) (v : Dword) : (s.ioWrite32 g p v).d = s.d := rfl
@[simp] theorem State.ioWrite32_respValue (g : PortAgent) (p : IoPort) (v : Dword) : (s.ioWrite32 g p v).respValue = s.respValue := rfl
@[simp] theorem State.ioWrite32_respStatus (g : PortAgent) (p : IoPort) (v : Dword) : (s.ioWrite32 g p v).respStatus = s.respStatus := rfl
@[simp] theorem State.ioWrite32_respValid (g : PortAgent) (p : IoPort) (v : Dword) : (s.ioWrite32 g p v).respValid = s.respValid := rfl
@[simp] theorem State.ioWrite32_addressLatch (g : PortAgent) (p : IoPort) (v : Dword) : (s.ioWrite32 g p v).addressLatch = if p = Config.addrPort then v else s.addressLatch := rfl
@[simp] theorem State.ioWrite32_history (g : PortAgent) (p : IoPort) (v : Dword) : (s.ioWrite32 g p v).history = s.history ++ [⟨g, .write, p, v⟩] := rfl
@[simp] theorem State.ioWrite32_responses (g : PortAgent) (p : IoPort) (v : Dword) : (s.ioWrite32 g p v).responses = s.responses := rfl
@[simp] theorem State.ioWrite32_issuer (g : PortAgent) (p : IoPort) (v : Dword) : (s.ioWrite32 g p v).issuer = s.issuer := rfl
@[simp] theorem State.ioWrite32_readings (g : PortAgent) (p : IoPort) (v : Dword) : (s.ioWrite32 g p v).readings = s.readings := rfl
@[simp] theorem State.ioWrite32_draws (g : PortAgent) (p : IoPort) (v : Dword) : (s.ioWrite32 g p v).draws = s.draws := rfl
@[simp] theorem State.ioWrite32_agenda (g : PortAgent) (p : IoPort) (v : Dword) : (s.ioWrite32 g p v).agenda = s.agenda := rfl

@[simp] theorem State.recordRead_phase (g : PortAgent) (p : IoPort) (v : Dword) : (s.recordRead g p v).phase = s.phase := rfl
@[simp] theorem State.recordRead_req (g : PortAgent) (p : IoPort) (v : Dword) : (s.recordRead g p v).req = s.req := rfl
@[simp] theorem State.recordRead_a (g : PortAgent) (p : IoPort) (v : Dword) : (s.recordRead g p v).a = s.a := rfl
@[simp] theorem State.recordRead_d (g : PortAgent) (p : IoPort) (v : Dword) : (s.recordRead g p v).d = s.d := rfl
@[simp] theorem State.recordRead_respValue (g : PortAgent) (p : IoPort) (v : Dword) : (s.recordRead g p v).respValue = s.respValue := rfl
@[simp] theorem State.recordRead_respStatus (g : PortAgent) (p : IoPort) (v : Dword) : (s.recordRead g p v).respStatus = s.respStatus := rfl
@[simp] theorem State.recordRead_respValid (g : PortAgent) (p : IoPort) (v : Dword) : (s.recordRead g p v).respValid = s.respValid := rfl
@[simp] theorem State.recordRead_addressLatch (g : PortAgent) (p : IoPort) (v : Dword) : (s.recordRead g p v).addressLatch = s.addressLatch := rfl
@[simp] theorem State.recordRead_history (g : PortAgent) (p : IoPort) (v : Dword) : (s.recordRead g p v).history = s.history ++ [⟨g, .read, p, v⟩] := rfl
@[simp] theorem State.recordRead_responses (g : PortAgent) (p : IoPort) (v : Dword) : (s.recordRead g p v).responses = s.responses := rfl
@[simp] theorem State.recordRead_issuer (g : PortAgent) (p : IoPort) (v : Dword) : (s.recordRead g p v).issuer = s.issuer := rfl
@[simp] theorem State.recordRead_readings (g : PortAgent) (p : IoPort) (v : Dword) : (s.recordRead g p v).readings = s.readings := rfl
@[simp] theorem State.recordRead_draws (g : PortAgent) (p : IoPort) (v : Dword) : (s.recordRead g p v).draws = s.draws + 1 := rfl
@[simp] theorem State.recordRead_agenda (g : PortAgent) (p : IoPort) (v : Dword) : (s.recordRead g p v).agenda = s.agenda := rfl

@[simp] theorem State.recordReading_phase (r : Nat) (g : RespReg) : (s.recordReading r g).phase = s.phase := rfl
@[simp] theorem State.recordReading_req (r : Nat) (g : RespReg) : (s.recordReading r g).req = s.req := rfl
@[simp] theorem State.recordReading_a (r : Nat) (g : RespReg) : (s.recordReading r g).a = s.a := rfl
@[simp] theorem State.recordReading_d (r : Nat) (g : RespReg) : (s.recordReading r g).d = s.d := rfl
@[simp] theorem State.recordReading_respValue (r : Nat) (g : RespReg) : (s.recordReading r g).respValue = s.respValue := rfl
@[simp] theorem State.recordReading_respStatus (r : Nat) (g : RespReg) : (s.recordReading r g).respStatus = s.respStatus := rfl
@[simp] theorem State.recordReading_respValid (r : Nat) (g : RespReg) : (s.recordReading r g).respValid = s.respValid := rfl
@[simp] theorem State.recordReading_addressLatch (r : Nat) (g : RespReg) : (s.recordReading r g).addressLatch = s.addressLatch := rfl
@[simp] theorem State.recordReading_history (r : Nat) (g : RespReg) : (s.recordReading r g).history = s.history := rfl
@[simp] theorem State.recordReading_responses (r : Nat) (g : RespReg) : (s.recordReading r g).responses = s.responses := rfl
@[simp] theorem State.recordReading_issuer (r : Nat) (g : RespReg) : (s.recordReading r g).issuer = s.issuer := rfl
@[simp] theorem State.recordReading_readings (r : Nat) (g : RespReg) : (s.recordReading r g).readings = s.readings ++ [⟨r, g, s.respRegister g⟩] := rfl
@[simp] theorem State.recordReading_draws (r : Nat) (g : RespReg) : (s.recordReading r g).draws = s.draws := rfl
@[simp] theorem State.recordReading_agenda (r : Nat) (g : RespReg) : (s.recordReading r g).agenda = s.agenda := rfl

@[simp] theorem State.resetBlock_phase : (s.resetBlock).phase = .idle := rfl
@[simp] theorem State.resetBlock_req : (s.resetBlock).req = Config.resetReq s.draws := rfl
@[simp] theorem State.resetBlock_a : (s.resetBlock).a = Config.resetA s.draws := rfl
@[simp] theorem State.resetBlock_d : (s.resetBlock).d = Config.resetD s.draws := rfl
@[simp] theorem State.resetBlock_respValue : (s.resetBlock).respValue = Config.resetRespValue s.draws := rfl
@[simp] theorem State.resetBlock_respStatus : (s.resetBlock).respStatus = Config.resetRespStatus s.draws := rfl
@[simp] theorem State.resetBlock_respValid : (s.resetBlock).respValid = false := rfl
@[simp] theorem State.resetBlock_addressLatch : (s.resetBlock).addressLatch = Config.resetAddressLatch s.draws := rfl
@[simp] theorem State.resetBlock_history : (s.resetBlock).history = s.history := rfl
@[simp] theorem State.resetBlock_responses : (s.resetBlock).responses = s.responses := rfl
@[simp] theorem State.resetBlock_issuer : (s.resetBlock).issuer = none := rfl
@[simp] theorem State.resetBlock_readings : (s.resetBlock).readings = s.readings := rfl
@[simp] theorem State.resetBlock_draws : (s.resetBlock).draws = s.draws + 1 := rfl
@[simp] theorem State.resetBlock_agenda : (s.resetBlock).agenda = s.agenda := rfl

@[simp] theorem State.armAddress_eq (v : Dword) (p : Phase) : s.armAddress v p = (s.setA v).goto p := rfl
@[simp] theorem State.writeAddress_eq (p : Phase) : s.writeAddress p = (s.ioWrite32 .block Config.addrPort s.a).goto p := rfl
@[simp] theorem State.readData_eq : s.readData = (s.recordRead .block Config.dataPort (s.answer Config.dataPort)).setD (s.answer Config.dataPort) := rfl
@[simp] theorem State.complete_eq (v : Dword) : s.complete v = (s.respond statusOk v).goto .idle := rfl
@[simp] theorem State.respondIllegal_eq : s.respondIllegal = (s.respond statusIllegalCommand 0#32).goto .idle := rfl
@[simp] theorem State.ioRead32_value (g : PortAgent) (p : IoPort) : (s.ioRead32 g p).1 = s.answer p := rfl
@[simp] theorem State.ioRead32_state (g : PortAgent) (p : IoPort) : (s.ioRead32 g p).2 = s.recordRead g p (s.answer p) := rfl
@[simp] theorem State.setAgenda_self : s.setAgenda s.agenda = s := rfl
@[simp] theorem State.setAgenda_setAgenda (ts us : List Turn) : (s.setAgenda ts).setAgenda us = s.setAgenda us := rfl
@[simp] theorem State.setAgenda_owned (ts : List Turn) : (s.setAgenda ts).owned = s.owned := rfl
@[simp] theorem State.latchRequest_owned (r : Nat) (w : CmdWord) : (s.latchRequest r w).owned = s.owned := rfl
@[simp] theorem State.setAgenda_answer (ts : List Turn) (p : IoPort) : (s.setAgenda ts).answer p = s.answer p := rfl
@[simp] theorem State.goto_owned (p : Phase) : (s.goto p).owned = (p != .idle) := rfl

/-- The port pair is owned exactly outside IDLE (R23). -/
theorem State.owned_iff : s.owned = true ↔ s.phase ≠ .idle := by simp [State.owned]

/-- The port pair is free exactly at IDLE (R23). -/
theorem State.not_owned_iff : s.owned = false ↔ s.phase = .idle := by simp [State.owned]

end Sys2Proof.Machine
end

