-- ==== Sys2Proof/Laws/Ops.lean ====
section
/-! SUPPORT. What each shared operation can do, said once: if it answers `next t`, then one of the cases holds. -/

namespace Sys2Proof.Machine

variable {s t : State}

/-- A read of the response interface that goes on only records the reading, and was allowed (R143). -/
theorem readResponse_next {r : Nat} {g : RespReg} (h : readResponse r g s = .next t) :
    t = s.recordReading r g ∧
      (g = .valid ∨ (s.responseIsFor r = true ∧ statusIsReserved s.respStatus = false)) := by
  unfold readResponse at h
  split at h
  · exact ⟨by cases h; rfl, .inl ‹_›⟩
  · split at h
    · cases h
    · rename_i hr
      split at h
      · cases h
      · rename_i hs
        exact ⟨by cases h; rfl, .inr ⟨eq_true_of_ne_false hr, eq_false_of_ne_true hs⟩⟩

/-- Another master's write that goes on is an event, off the pair or at a free pair (R145). -/
theorem otherWrite_next {m : Nat} {p : IoPort} {v : Dword} (h : otherWrite m p v s = .next t) :
    (s.owned && isPairPort p) = false ∧ t = s.ioWrite32 (.other m) p v := by
  unfold otherWrite at h
  split at h
  · cases h
  · rename_i hf
    exact ⟨eq_false_of_ne_true hf, by cases h; rfl⟩

/-- Another master's read that goes on is an event, off the pair or at a free pair (R145). -/
theorem otherRead_next {m : Nat} {p : IoPort} (h : otherRead m p s = .next t) :
    (s.owned && isPairPort p) = false ∧ t = s.recordRead (.other m) p (s.answer p) := by
  unfold otherRead at h
  split at h
  · cases h
  · rename_i hf
    exact ⟨eq_false_of_ne_true hf, by cases h; rfl⟩

/-- CHECK_VENDOR's decision after its first read (R131). -/
theorem decidePresence_cases (b : Bus) (sl : Slot) :
    decidePresence b sl s = s.complete Config.probeAbsentResult ∨
      decidePresence b sl s = s.armAddress (configAddress b sl 0#3 0x02#8) .addr2 := by
  unfold decidePresence
  split
  · exact .inl rfl
  · exact .inr rfl

/-- Everything a command's transition can do: complete at issue (ENCODE), set up its first address, write an address,
access the data port and complete, or (CHECK_VENDOR) go on to its second address. -/
theorem exec_next {i : Instr} (h : exec i s = .next t) :
    (s.phase = .idle ∧ t = s.complete (commandAddress i) ∧ ∀ p, hasStep i p = false) ∨
    (s.phase = .idle ∧ t = s.armAddress (commandAddress i) .addr1 ∧ hasStep i .addr1 = true) ∨
    (s.phase = .addr1 ∧ t = s.writeAddress .data1 ∧ hasStep i .data1 = true) ∨
    (s.phase = .addr2 ∧ t = s.writeAddress .data2 ∧ hasStep i .data2 = true) ∨
    ((s.phase = .data1 ∨ s.phase = .data2) ∧ ∃ v, t = s.readData.complete v) ∨
    (s.phase = .data1 ∧ ∃ v, t = (s.ioWrite32 .block Config.dataPort v).complete 0#32) ∨
    (s.phase = .data1 ∧ ∃ b sl, i = .checkVendor b sl ∧
      t = s.readData.armAddress (configAddress b sl 0#3 0x02#8) .addr2) := by
  cases i with
  | encode b sl f o =>
    simp only [exec, execEncode] at h
    split at h <;> cases h
    exact .inl ⟨‹_›, rfl, fun _ => rfl⟩
  | readWord b sl f o =>
    simp only [exec, execReadWord] at h
    split at h <;> cases h
    · exact .inr (.inl ⟨‹_›, rfl, rfl⟩)
    · exact .inr (.inr (.inl ⟨‹_›, rfl, rfl⟩))
    · exact .inr (.inr (.inr (.inr (.inl ⟨.inl ‹_›, _, rfl⟩))))
  | writeWord b sl f o d =>
    simp only [exec, execWriteWord] at h
    split at h <;> cases h
    · exact .inr (.inl ⟨‹_›, rfl, rfl⟩)
    · exact .inr (.inr (.inl ⟨‹_›, rfl, rfl⟩))
    · exact .inr (.inr (.inr (.inr (.inr (.inl ⟨‹_›, _, rfl⟩)))))
  | checkVendor b sl =>
    simp only [exec, execCheckVendor] at h
    split at h <;> cases h
    · exact .inr (.inl ⟨‹_›, rfl, rfl⟩)
    · exact .inr (.inr (.inl ⟨‹_›, rfl, rfl⟩))
    · rcases decidePresence_cases (s := s.readData) b sl with e | e
      · exact .inr (.inr (.inr (.inr (.inl ⟨.inl ‹_›, _, e⟩))))
      · exact .inr (.inr (.inr (.inr (.inr (.inr ⟨‹_›, b, sl, rfl, e⟩)))))
    · exact .inr (.inr (.inr (.inl ⟨‹_›, rfl, rfl⟩)))
    · exact .inr (.inr (.inr (.inr (.inl ⟨.inr ‹_›, _, rfl⟩))))

/-- A command's transition, where it stops, stops because the phase is none of the command's. -/
theorem exec_stops {i : Instr} (h : ∀ t, exec i s ≠ .next t) :
    exec i s = .fault (.noSequencerStep s.phase) ∧ s.phase ≠ .idle ∧ hasStep i s.phase = false := by
  cases i <;> simp only [exec, execEncode, execReadWord, execWriteWord, execCheckVendor] at h ⊢ <;>
    cases hp : s.phase <;> simp [hp, hasStep] at h ⊢

/-- The sequencer's step (R21): nothing at IDLE, else the transition of the command in REQ. -/
theorem sequencerStep_next (h : sequencerStep s = .next t) :
    (s.owned = false ∧ t = s) ∨ (s.owned = true ∧ ∃ i, decode s.req = .legal i ∧ exec i s = .next t) := by
  unfold sequencerStep at h
  split at h
  · split at h
    · exact .inr ⟨‹_›, _, ‹_›, h⟩
    · cases h
  · rename_i ho
    exact .inl ⟨eq_false_of_ne_true ho, by cases h; rfl⟩

/-- The issue step (R78): the issue action of a legal command, or the response to an ILLEGAL word. -/
theorem issueStep_next {r : Nat} {w : CmdWord} (h : issueStep r w s = .next t) :
    (∃ i, decode w = .legal i ∧ exec i (s.latchRequest r w) = .next t) ∨
      ((∃ why, decode w = .illegal why) ∧ t = (s.latchRequest r w).respondIllegal) := by
  unfold issueStep at h
  split at h
  · exact .inl ⟨_, ‹_›, h⟩
  · exact .inr ⟨⟨_, ‹_›⟩, by cases h; rfl⟩

/-- A requester's turn (R78): it holds behind a command in progress, or issues at IDLE. -/
theorem requestTurn_next {r : Nat} {w : CmdWord} {rest : List Turn} (h : requestTurn r w rest s = .next t) :
    (s.owned = true ∧ sequencerStep s = .next t) ∨
      (s.owned = false ∧ issueStep r w (s.setAgenda rest) = .next t) := by
  unfold requestTurn at h
  split at h
  · exact .inl ⟨‹_›, h⟩
  · rename_i ho
    exact .inr ⟨eq_false_of_ne_true ho, h⟩

end Sys2Proof.Machine
end

