-- ==== Sys2Proof/Laws/PerInstr.lean ====
section
/-! SUPPORT. A fact about every command as syntax: its word leaves `rsv` zero and carries its row's opcode (30_encoding.md
rules R71, R73), and its operands are in range (R71). -/

namespace Sys2Proof.Laws.WordShape

/-- The opcode of a command (R73). -/
def opcode : Instr → BitVec 2
  | .encode _ _ _ _ => 0b00#2
  | .readWord _ _ _ _ => 0b01#2
  | .writeWord _ _ _ _ _ => 0b10#2
  | .checkVendor _ _ => 0b11#2

/-- The word's `rsv` is zero, its `op` is the command's, and the operands are in range. -/
def Statement (i : Instr) : Prop :=
  rsvField (Sys2Proof.encode i) = 0#6 ∧ opField (Sys2Proof.encode i) = opcode i ∧ i.wellFormed = true

theorem encode (b : Bus) (s : Slot) (f : Func) (o : Offset) : Statement (.encode b s f o) :=
  ⟨rsvField_packWord .., opField_packWord .., Instr.wellFormed_all _⟩

theorem readWord (b : Bus) (s : Slot) (f : Func) (o : Offset) : Statement (.readWord b s f o) :=
  ⟨rsvField_packWord .., opField_packWord .., Instr.wellFormed_all _⟩

theorem writeWord (b : Bus) (s : Slot) (f : Func) (o : Offset) (d : Word) : Statement (.writeWord b s f o d) :=
  ⟨rsvField_packWord .., opField_packWord .., Instr.wellFormed_all _⟩

theorem checkVendor (b : Bus) (s : Slot) : Statement (.checkVendor b s) :=
  ⟨rsvField_packWord .., opField_packWord .., Instr.wellFormed_all _⟩

end Sys2Proof.Laws.WordShape
end

