-- ==== Sys2Proof/Laws/Step.lean ====
section
/-! SUPPORT. What one step of the machine can do, said once. -/

namespace Sys2Proof.Machine

variable {s t : State}

/-- Without a planned turn the sequencer moves. -/
theorem step_no_turn (h : s.agenda = []) : step s = sequencerStep s := by simp [step, h]

/-- With a planned turn its agent moves. -/
theorem step_turn {u : Turn} {rest : List Turn} (h : s.agenda = u :: rest) : step s = agentStep u rest s := by
  simp [step, h]

/-- The moves of the machine. `ts` are the turns to come after the move. -/
inductive Move (s t : State) (ts : List Turn) : Prop where
  /-- The sequencer at IDLE: nothing (R21). -/
  | rest (idle : s.owned = false) (eq : t = s.setAgenda ts)
  /-- The command in REQ goes on (R21). -/
  | command (busy : s.owned = true) (i : Instr) (dec : decode s.req = .legal i) (run : exec i (s.setAgenda ts) = .next t)
  /-- A legal command is issued (R78), by its word or by a wide call. -/
  | issue (idle : s.owned = false) (r : Nat) (w : CmdWord) (i : Instr) (dec : decode w = .legal i)
      (run : exec i ((s.setAgenda ts).latchRequest r w) = .next t)
  /-- An ILLEGAL word is answered (R142). -/
  | illegal (idle : s.owned = false) (r : Nat) (w : CmdWord) (why : IllegalWord) (dec : decode w = .illegal why)
      (eq : t = ((s.setAgenda ts).latchRequest r w).respondIllegal)
  /-- A requester reads the response interface (R143). -/
  | reading (r : Nat) (g : RespReg) (head : s.agenda = .readResponse r g :: ts) (eq : t = (s.setAgenda ts).recordReading r g)
  /-- Another master writes a port (R145). -/
  | otherWrite (m : Nat) (p : IoPort) (v : Dword) (head : s.agenda = .portWrite m p v :: ts)
      (free : (s.owned && isPairPort p) = false) (eq : t = (s.setAgenda ts).ioWrite32 (.other m) p v)
  /-- Another master reads a port (R145). -/
  | otherRead (m : Nat) (p : IoPort) (head : s.agenda = .portRead m p :: ts)
      (free : (s.owned && isPairPort p) = false) (eq : t = (s.setAgenda ts).recordRead (.other m) p ((s.setAgenda ts).answer p))
  /-- The block is reset (R160). -/
  | reset (head : s.agenda = .reset :: ts) (eq : t = (s.setAgenda ts).resetBlock)

theorem Move.of_sequencerStep {ts : List Turn} (h : sequencerStep (s.setAgenda ts) = .next t) : Move s t ts := by
  rcases sequencerStep_next h with ⟨ho, e⟩ | ⟨ho, i, hd, hx⟩
  · exact .rest ho e
  · exact .command ho i hd hx

theorem Move.of_requestTurn {r : Nat} {w : CmdWord} {rest : List Turn} (h : requestTurn r w rest s = .next t) :
    ∃ ts, Move s t ts := by
  rcases requestTurn_next h with ⟨_, hx⟩ | ⟨ho, hx⟩
  · exact ⟨s.agenda, .of_sequencerStep (by simpa using hx)⟩
  · rcases issueStep_next hx with ⟨i, hd, hx⟩ | ⟨⟨why, hd⟩, e⟩
    · exact ⟨rest, .issue ho r w i hd hx⟩
    · exact ⟨rest, .illegal ho r w why hd e⟩

/-- Every step that goes on is one of the moves. -/
theorem step_next (h : step s = .next t) : ∃ ts, Move s t ts := by
  unfold step at h
  split at h
  · exact ⟨s.agenda, .of_sequencerStep (by simpa using h)⟩
  · rename_i u rest hu
    cases u with
    | sequencer => exact ⟨rest, .of_sequencerStep h⟩
    | issue r w => exact Move.of_requestTurn h
    | call r c =>
      simp only [agentStep] at h
      split at h
      · exact Move.of_requestTurn h
      · cases h
    | readResponse r g => exact ⟨rest, .reading r g hu (readResponse_next h).1⟩
    | portWrite m p v => exact ⟨rest, .otherWrite m p v hu (otherWrite_next h).1 (otherWrite_next h).2⟩
    | portRead m p => exact ⟨rest, .otherRead m p hu (otherRead_next h).1 (otherRead_next h).2⟩
    | reset => exact ⟨rest, .reset hu (by simp only [agentStep] at h; cases h; rfl)⟩

/-- A run of one more step: the step, then the rest of the run. -/
theorem runsTo_succ {n : Nat} {u : State} (h : step s = .next u) (k : RunsTo n u t) : RunsTo (n + 1) s t := by
  unfold RunsTo at k ⊢
  simp only [Host.Core.run]
  have e : Host.Core.step core s = .next u := h
  rw [e]
  exact k

/-- A run of no step. -/
theorem runsTo_zero : RunsTo 0 s s := rfl

end Sys2Proof.Machine
end

