-- ==== Sys2Proof/Tests/Slice0.lean ====
section
/-! SUPPORT. The model's own tests. Expected results come from 95_test_vectors.md of the spec, or by hand from its rules; the
witnesses show that the hypotheses of the statements can be met. -/

namespace Sys2Proof.Tests

open Sys2Proof Sys2Proof.Machine

/-- The state after a step that goes on. -/
def after : Host.Outcome State Fault Refusal → State
  | .next t => t
  | .fault _ => State.reset
  | .refused _ => State.reset

/-- An idle block with turns to come. -/
def planned (ts : List Turn) : State := { State.reset with agenda := ts }

/-- A block in the midst of the command of a word, in a given phase, its address formed and in the latch. -/
def midst (p : Phase) (w : CmdWord) (addr : Dword) : State :=
  { State.reset with phase := p, req := w, a := addr, addressLatch := addr, issuer := some 0 }

/-- READ_WORD 0, 5, 0, 0x02 in the midst (95_test_vectors.md section 2.2). -/
def midRead (p : Phase) : State := midst p 0x000040002802#48 0x80002800#32

/-- CHECK_VENDOR 0, 5 in the midst (95_test_vectors.md section 2.4). -/
def midProbe (p : Phase) : State := midst p 0x0000C0002800#48 0x80002800#32

/-- The answer to READ_WORD 0, 5, 0, 0x02 by requester 0, in the latch (95_test_vectors.md section 2.2). -/
def answered : State :=
  { midRead .idle with respValid := true, respValue := 0x0000100E#32, responses := [⟨0#2, 0x0000100E#32⟩] }

/-! ### Well-formedness: an ill-formed call for each check, and the last number in range (R6, R144) -/

theorem test_bus_out_of_range : (WideCall.encode 256 0 0 0).wellFormed = false := by decide
theorem test_slot_out_of_range : (WideCall.checkVendor 0 32).wellFormed = false := by decide
theorem test_func_out_of_range : (WideCall.readWord 0 0 8 0).wellFormed = false := by decide
theorem test_offset_out_of_range : (WideCall.readWord 0 0 0 256).wellFormed = false := by decide
theorem test_data_out_of_range : (WideCall.writeWord 0 0 0 0 0x10000).wellFormed = false := by decide
theorem test_last_in_range : (WideCall.writeWord 255 31 7 255 0xFFFF).wellFormed = true := by decide

/-! ### Decode: words written out from the patterns of R73, bit 47 first -/

/-- `ENCODE 0x12, 10, 5, 0x3C`: data, op 00, rsv, bus, slot, func, offset. -/
theorem test_decode_encode :
    decode 0b0000000000000000_00_000000_00010010_01010_101_00111100#48 = .legal (.encode 0x12#8 10#5 5#3 0x3C#8) := by
  decide

/-- `READ_WORD 3, 1, 2, 0xFE`: op 01. -/
theorem test_decode_readWord :
    decode 0b0000000000000000_01_000000_00000011_00001_010_11111110#48 = .legal (.readWord 3#8 1#5 2#3 0xFE#8) := by
  decide

/-- `WRITE_WORD 0, 5, 0, 0x06, 0x1234`: op 10, data above. -/
theorem test_decode_writeWord :
    decode 0b0001001000110100_10_000000_00000000_00101_000_00000110#48 =
      .legal (.writeWord 0#8 5#5 0#3 0x06#8 0x1234#16) := by decide

/-- `CHECK_VENDOR 1, 31`: op 11, func and offset zero. -/
theorem test_decode_checkVendor :
    decode 0b0000000000000000_11_000000_00000001_11111_000_00000000#48 = .legal (.checkVendor 1#8 31#5) := by decide

/-- Section 2.5: illegal words, one for each check of R74. -/
theorem test_decode_illegal :
    decode 0x0000BF000000#48 = .illegal .reservedBits ∧ decode 0x000140000000#48 = .illegal .strayData ∧
      decode 0x0000C0002802#48 = .illegal .strayProbeBits := by decide

/-- The table's four `match` values decode to its four rows, and 49 bits are no command. -/
theorem test_decodeTableWord :
    decodeTableWord 48 0x000000000000 = some (.encode 0 0 0 0) ∧
      decodeTableWord 48 0x000040000000 = some (.readWord 0 0 0 0) ∧
      decodeTableWord 48 0x000080000000 = some (.writeWord 0 0 0 0 0) ∧
      decodeTableWord 48 0x0000C0000000 = some (.checkVendor 0 0) ∧ decodeTableWord 49 0 = none := by decide

/-- Words of section 2 assembled from their lines, pseudo-instruction, alias and hexadecimal among them (R77). -/
theorem test_assemble :
    assembleLine 1 "WRCMD 0, 5, 0, 0x0007".toList = .word 0x000780002804#48 ∧
      assembleLine 2 "  PROBE 1,31".toList = .word 0x0000C001F800#48 ∧
      assembleLine 3 "ENCODE 0x12, 0x0A, 05, 0x3C".toList = .word 0x00000012553C#48 := by decide

/-- A line with an operand outside its field is refused by name and line (R77), not truncated. -/
theorem test_assemble_refuses : assembleLine 7 "ENC 0, 32, 0, 0".toList = .refused (.outOfRange 7 .slot 32) := by decide

/-! ### The commands -/

/-- Section 2.1: the mixed row and the all-ones row. -/
theorem test_configAddress :
    configAddress 0x12#8 10#5 5#3 0x3C#8 = 0x8012553C#32 ∧ configAddress 0xFF#8 31#5 7#3 0xFF#8 = 0x80FFFFFC#32 := by
  decide

/-- S2 and section 2.2: the halves of dword 0 of the fixture. -/
theorem test_halfSelect :
    halfSelect 0x100E8086#32 0x01#8 = 0x8086#16 ∧ halfSelect 0x100E8086#32 0x02#8 = 0x100E#16 := by decide

/-- R52 by hand on the fixture's dword 0. -/
theorem test_byteLane : byteLane 0x100E8086#32 0x00#8 = 0x86#8 ∧ byteLane 0x100E8086#32 0x07#8 = 0x10#8 := by decide

/-- P4, command 2: ENCODE answers in its issue step, A unchanged. -/
theorem test_encode_answers :
    (after (step (State.reset.withFetchWord 48 0x00000012553C))).respValue = 0x8012553C#32 ∧
      (after (step (State.reset.withFetchWord 48 0x00000012553C))).a = 0#32 := by decide

/-- Section 2.2: the issue of READ_WORD 0, 5, 0, 0x02 forms the address. -/
theorem test_readWord_issue :
    (after (step (State.reset.withFetchWord 48 0x000040002802))).a = 0x80002800#32 ∧
      (after (step (State.reset.withFetchWord 48 0x000040002802))).phase = .addr1 := by decide

/-- Section 2.2: the address write is the event `W 0xCF8 0x80002800`. -/
theorem test_readWord_address :
    (after (step (midRead .addr1))).history = [⟨.block, .write, 0xCF8#16, 0x80002800#32⟩] := by decide

/-- Section 2.3: WRITE_WORD at an odd word sends 0x00001234, unshifted, and answers (0, 0). -/
theorem test_writeWord_data :
    (after (step (midst .data1 0x123480002806#48 0x80002804#32))).history =
        [⟨.block, .write, 0xCFC#16, 0x00001234#32⟩] ∧
      (after (step (midst .data1 0x123480002806#48 0x80002804#32))).responses = [⟨0#2, 0#32⟩] := by decide

/-- Section 2.3: the issue of WRITE_WORD 0xFF, 31, 7, 0xFE, 0x8001 forms the address. -/
theorem test_writeWord_issue :
    (after (step (State.reset.withFetchWord 48 0x800180FFFFFE))).a = 0x80FFFFFC#32 := by decide

/-- Section 2.4: the sentinel in the low half alone ends the command with 0. -/
theorem test_checkVendor_absent :
    (decidePresence 0#8 0#5 { midProbe .data1 with d := 0x1234FFFF#32 }).phase = .idle ∧
      (decidePresence 0#8 0#5 { midProbe .data1 with d := 0x1234FFFF#32 }).responses = [⟨0#2, 0#32⟩] := by decide

/-- Section 2.4: vendor 0xFFFE is present, so the second address write is set up. -/
theorem test_checkVendor_present :
    (decidePresence 1#8 31#5 { midProbe .data1 with d := 0x5678FFFE#32 }).phase = .addr2 ∧
      (decidePresence 1#8 31#5 { midProbe .data1 with d := 0x5678FFFE#32 }).a = 0x8001F800#32 := by decide

/-- P4, command 1: the illegal word is answered (1, 0), REQ keeps it, and the phase stays IDLE. -/
theorem test_illegal_response :
    (after (step (planned [.issue 0 0x0000C0002900#48]))).responses = [⟨1#2, 0#32⟩] ∧
      (after (step (planned [.issue 0 0x0000C0002900#48]))).req = 0x0000C0002900#48 ∧
      (after (step (planned [.issue 0 0x0000C0002900#48]))).phase = .idle := by decide

/-! ### The other agents (section 2.6) -/

theorem test_read_after_reset : step (planned [.readResponse 3 .value]) = .fault (.responseNotValid 3) := by rfl

theorem test_read_by_another : step { answered with agenda := [.readResponse 1 .value] } = .fault (.responseNotValid 1) := by
  rfl

theorem test_read_by_issuer :
    (after (step { answered with agenda := [.readResponse 0 .value] })).readings = [⟨0, .value, 0x0000100E#32⟩] := by
  decide

theorem test_interleaved :
    step { midRead .data1 with agenda := [.portWrite 9 0xCF8#16 0x80003000#32] } =
      .fault (.portPairInterleaved ⟨.other 9, .write, 0xCF8#16, 0x80003000#32⟩) := by rfl

theorem test_wide_call_refused :
    step (planned [.call 0 (.encode 0 32 0 0)]) = .refused (.programmingError .slot 32) := by rfl

theorem test_issue_holds :
    (after (step { midRead .addr1 with agenda := [.issue 2 0#48] })).req = 0x000040002802#48 ∧
      (after (step { midRead .addr1 with agenda := [.issue 2 0#48] })).agenda = [.issue 2 0#48] := by decide

/-! ### Witnesses: for each statement with hypotheses, a state and operands that meet them -/

/-- DecodeFollowsItsChecks, IllegalCommandResponse: words that the three checks refuse, the last by a func and by an offset bit. -/
theorem witness_checks :
    (0x000001000000#48).extractLsb' 24 6 ≠ 0#6 ∧
    ((0x000100000000#48).extractLsb' 30 2 ≠ 0b10#2 ∧ (0x000100000000#48).extractLsb' 32 16 ≠ 0#16) ∧
    ((0x0000C0000001#48).extractLsb' 30 2 = 0b11#2 ∧ (0x0000C0000001#48).extractLsb' 0 11 ≠ 0#11) ∧
    ((0x0000C0000400#48).extractLsb' 30 2 = 0b11#2 ∧ (0x0000C0000400#48).extractLsb' 0 11 ≠ 0#11) := by decide

/-- A word passes R74's three checks and has the op `op`. -/
def passesWithOp (op : BitVec 2) (w : CmdWord) : Bool :=
  w.extractLsb' 24 6 == 0#6 && (w.extractLsb' 30 2 == 0b10#2 || w.extractLsb' 32 16 == 0#16) &&
    (w.extractLsb' 30 2 != 0b11#2 || w.extractLsb' 0 11 == 0#11) && w.extractLsb' 30 2 == op

/-- DecodeFollowsItsChecks: for each op a word that passes, at the top of its operands. -/
theorem witness_passing_words :
    passesWithOp 0b00#2 0x000000FFFFFF#48 = true ∧ passesWithOp 0b01#2 0x000040FFFFFF#48 = true ∧
      passesWithOp 0b10#2 0xFFFF80FFFFFF#48 = true ∧ passesWithOp 0b11#2 0x0000C0FFF800#48 = true := by decide

/-- CommandsHaveOneWord. -/
theorem witness_legal_word : decode 0x0000C0FFF800#48 = .legal (.checkVendor 0xFF#8 31#5) := by decide

/-- AssembledWordsAreLegal: a line that assembles, a line of the table out of range, and a refusal of each other kind. -/
theorem witness_assembled :
    assembleLine 1 "RDSTATUS 0,5,0".toList = .word 0x000040002806#48 ∧
      (⟨"RDSTATUS", [0, 5, 0], .readWord 0 5 0 6⟩ : SyntaxRow) ∈ syntaxRows 0 5 0 0 0 ∧
      assembleLine 2 "WRW 0, 0, 0, 0, 0x10000".toList = .refused (.outOfRange 2 .data 0x10000) ∧
      assembleLine 3 "READ 0".toList = .refused (.unknownMnemonic 3) ∧
      assembleLine 4 "PROBE 0, x".toList = .refused (.notANumber 4) ∧
      assembleLine 5 "PROBE 0".toList = .refused (.wrongOperandCount 5) := by decide

/-- LinesAreReadAsWritten: the spec's numerals 0xFF, 0x00 and 0x3C, a letter in lower case, and a decimal numeral. -/
theorem witness_numerals :
    IsNumeralOf 0xFF "0xFF".toList ∧ IsNumeralOf 0 "0x00".toList ∧ IsNumeralOf 0x3C "0x3C".toList ∧
      IsNumeralOf 0x3C "0x3c".toList ∧ IsNumeralOf 31 "31".toList :=
  ⟨.inr ⟨_, rfl, [15, 15], by decide, by decide, by decide, .cons (.inr rfl) (.cons (.inr rfl) .nil)⟩,
    .inr ⟨_, rfl, [0, 0], by decide, by decide, by decide, .cons (.inl rfl) (.cons (.inl rfl) .nil)⟩,
    .inr ⟨_, rfl, [3, 12], by decide, by decide, by decide, .cons (.inl rfl) (.cons (.inr rfl) .nil)⟩,
    .inr ⟨_, rfl, [3, 12], by decide, by decide, by decide, .cons (.inl rfl) (.cons (.inl rfl) .nil)⟩,
    .inl ⟨[3, 1], by decide, by decide, by decide, .cons (.inl rfl) (.cons (.inl rfl) .nil)⟩⟩

/-- LinesAreReadAsWritten: a line at the top of its ranges, and one just above. -/
theorem witness_lines :
    (⟨"PROBE", [255, 31], .checkVendor 255 31⟩ : SyntaxRow) ∈ syntaxRows 255 31 0 0 0 ∧
      "PROBE 0xFF, 31".toList = "PROBE".toList ++ ' ' :: List.intercalate [',', ' '] ["0xFF".toList, "31".toList] ∧
      (∀ p ∈ (WideCall.checkVendor 255 31).arguments, p.2 < p.1.bound) ∧
      ∃ p ∈ (WideCall.checkVendor 255 32).arguments, p.1.bound ≤ p.2 := by decide

/-- AddressSelectsItsDword, WriteWordIgnoresTheOddWord's addressed dword, at the top of every field. -/
theorem witness_latch :
    ({ State.reset with addressLatch := 0x80FFFFFC#32 } : State).addressLatch = configAddress 0xFF#8 31#5 7#3 0xFF#8 := by
  decide

/-- EncodeAnswersAtOnce and the IDLE clause of every command. -/
theorem witness_idle : State.reset.phase = .idle := rfl

/-- The clauses of the commands' transitions: every phase. -/
theorem witness_phases :
    (midProbe .addr1).phase = .addr1 ∧ (midProbe .data1).phase = .data1 ∧ (midProbe .addr2).phase = .addr2 ∧
      (midProbe .data2).phase = .data2 := ⟨rfl, rfl, rfl, rfl⟩

/-- WriteWordIgnoresTheOddWord: an even-word and an odd-word offset, low bit set. -/
theorem witness_word_parity : (0xFD#8).extractLsb' 1 1 = 0#1 ∧ (0xFF#8).extractLsb' 1 1 = 1#1 := by decide

/-- LowOffsetBitsHaveNoEffect: different offsets that agree above bit 1, and above bit 0. -/
theorem witness_low_bits :
    ((0xFC#8).extractLsb' 2 6 = (0xFF#8).extractLsb' 2 6) ∧ ((0x02#8).extractLsb' 1 7 = (0x03#8).extractLsb' 1 7) := by
  decide

/-- EncodeWordRun. -/
theorem witness_encode_run :
    (planned [.issue 0 0x000000FFFFFF#48]).phase = .idle ∧
      0x000000FFFFFF#48 &&& 0xFFFFFF000000#48 = 0x000000000000#48 := by decide

/-- ReadWordRun. -/
theorem witness_readWord_run :
    (planned [.issue 0 0x000040FFFFFF#48, .sequencer, .sequencer]).phase = .idle ∧
      0x000040FFFFFF#48 &&& 0xFFFFFF000000#48 = 0x000040000000#48 := by decide

/-- WriteWordRun. -/
theorem witness_writeWord_run :
    (planned [.issue 0 0xFFFF80FFFFFF#48, .sequencer, .sequencer]).phase = .idle ∧
      0xFFFF80FFFFFF#48 &&& 0x0000FF000000#48 = 0x000080000000#48 := by decide

/-- CheckVendorRun, CheckVendorIsTwoReads. -/
theorem witness_checkVendor_run :
    (planned [.issue 0 0x0000C0FFF800#48]).phase = .idle ∧
      0x0000C0FFF800#48 &&& 0xFFFFFF0007FF#48 = 0x0000C0000000#48 := by decide

/-- StepRunsTheDecodedCommand: the clauses at IDLE and in the midst of a command. -/
theorem witness_step_runs :
    (planned [.issue 0 0x000040002802#48]).phase = .idle ∧
      decode 0x000040002802#48 = .legal (.readWord 0#8 5#5 0#3 0x02#8) ∧
      ({ midRead .addr1 with agenda := [.sequencer] } : State).phase ≠ .idle ∧ (midRead .data1).agenda = [] ∧
      decode (midRead .data1).req = .legal (.readWord 0#8 5#5 0#3 0x02#8) ∧
      (planned [.sequencer]).phase = .idle ∧ State.reset.agenda = [] := by decide

/-- IssueHoldsWhileBusy: a busy block with an issue next, which steps on. -/
theorem witness_hold :
    ({ midRead .addr1 with agenda := [.issue 2 0#48] } : State).phase ≠ .idle ∧
      step { midRead .addr1 with agenda := [.issue 2 0#48] } =
        .next (after (step { midRead .addr1 with agenda := [.issue 2 0#48] })) := ⟨by decide, rfl⟩

/-- IllegalCommandResponse. -/
theorem witness_illegal :
    (planned [.issue 0 0x000001000000#48]).phase = .idle ∧ ∃ why, decode 0x000001000000#48 = .illegal why :=
  ⟨rfl, .reservedBits, by decide⟩

/-- UnreadyResponseFaults: not valid; valid but another's (its second clause: witness_illegal and witness_encode_run). -/
theorem witness_unready :
    RespReg.value ≠ .valid ∧ (planned [.readResponse 3 .value]).respValid = false ∧
      ({ answered with agenda := [.readResponse 1 .status] } : State).issuer ≠ some 1 := by decide

/-- ResponseReads: the statuses OK and ILLEGAL_COMMAND, and the two reserved ones. -/
theorem witness_response_reads :
    (∀ c ∈ [0#2, 1#2, 2#2, 3#2], ({ answered with respStatus := c } : State).respValid = true ∧
      ({ answered with respStatus := c } : State).issuer = some 0 ∧ (c = 0#2 ∨ c = 1#2 ∨ c = 2#2 ∨ c = 3#2)) ∧
    RespReg.status ≠ .valid ∧ (planned [.readResponse 5 .valid]).agenda = [.readResponse 5 .valid] := by decide

/-- InterleavedAccessFaults: a busy block with either port of the pair next. -/
theorem witness_interleaved :
    ({ midRead .data1 with agenda := [.portRead 9 0xCFC#16] } : State).phase ≠ .idle ∧
      ((0xCF8#16 : IoPort) = 0xCF8#16 ∨ (0xCF8#16 : IoPort) = 0xCFC#16) ∧
      ((0xCFC#16 : IoPort) = 0xCF8#16 ∨ (0xCFC#16 : IoPort) = 0xCFC#16) := by decide

/-- OtherMastersAreEvents: the pair at IDLE, and the neighbour ports while busy. -/
theorem witness_other_masters :
    (planned [.portWrite 9 0xCF8#16 0#32]).phase = .idle ∧ (midRead .data1).phase ≠ .idle ∧
      ((0xCF9#16 : IoPort) ≠ 0xCF8#16 ∧ (0xCF9#16 : IoPort) ≠ 0xCFC#16) ∧
      ((0xCFB#16 : IoPort) ≠ 0xCF8#16 ∧ (0xCFB#16 : IoPort) ≠ 0xCFC#16) := by decide

/-- WideCallsAreChecked: each argument at its bound is refused, and a call with all of them just below is next. -/
theorem witness_wide_calls :
    step (planned [.call 0 (.writeWord 256 0 0 0 0)]) = .refused (.programmingError .bus 256) ∧
      step (planned [.call 0 (.writeWord 0 32 0 0 0)]) = .refused (.programmingError .slot 32) ∧
      step (planned [.call 0 (.writeWord 0 0 8 0 0)]) = .refused (.programmingError .func 8) ∧
      step (planned [.call 0 (.writeWord 0 0 0 256 0)]) = .refused (.programmingError .offset 256) ∧
      step (planned [.call 0 (.writeWord 0 0 0 0 0x10000)]) = .refused (.programmingError .data 0x10000) ∧
      (planned [.call 0 (.writeWord 255 31 7 255 0xFFFF)]).phase = .idle ∧
      (after (step (planned [.call 0 (.writeWord 255 31 7 255 0xFFFF)]))).req = 0xFFFF80FFFFFF#48 :=
  ⟨rfl, rfl, rfl, rfl, rfl, rfl, by decide⟩

/-- WideCallsHoldWhileBusy: a coherent busy block with a call at the top of its ranges next, which steps on. -/
theorem witness_call_holds :
    ({ midRead .addr1 with agenda := [.call 2 (.writeWord 255 31 7 255 0xFFFF)] } : State).phase ≠ .idle ∧
      (∀ p ∈ (WideCall.writeWord 255 31 7 255 0xFFFF).arguments, p.2 < p.1.bound) ∧
      SequencerCoherent { midRead .addr1 with agenda := [.call 2 (.writeWord 255 31 7 255 0xFFFF)] } ∧
      step { midRead .addr1 with agenda := [.call 2 (.writeWord 255 31 7 255 0xFFFF)] } =
        .next (after (step { midRead .addr1 with agenda := [.call 2 (.writeWord 255 31 7 255 0xFFFF)] })) :=
  ⟨by decide, by decide, fun _ => ⟨.readWord 0#8 5#5 0#3 0x02#8, by decide, by decide, by decide, by decide⟩, rfl⟩

/-- ResetAbandonsTheCommand: reset in the midst of a command. -/
theorem witness_reset_turn : ({ midRead .data1 with agenda := [.reset] } : State).agenda = .reset :: [] := rfl

/-- The midst of a READ_WORD after its address write is coherent, and it steps on: SequencerStaysCoherent, CommandsComplete. -/
theorem witness_coherent :
    SequencerCoherent (midRead .addr1) ∧ step (midRead .addr1) = .next (after (step (midRead .addr1))) ∧
      (midRead .addr1).phase ≠ .idle ∧ (midRead .addr1).agenda = [] :=
  ⟨fun _ => ⟨.readWord 0#8 5#5 0#3 0x02#8, by decide, by decide, by decide, by decide⟩, rfl, by decide, rfl⟩

/-- ResponseLatchStaysSound, OnlyTheSpecsFaults: an answered block is sound, and a read by another faults. -/
theorem witness_latch_sound :
    ResponseLatchSound answered ∧ SequencerCoherent { answered with agenda := [.readResponse 1 .value] } ∧
      ResponseLatchSound { answered with agenda := [.readResponse 1 .value] } ∧
      step { answered with agenda := [.readResponse 1 .value] } = .fault (.responseNotValid 1) := by
  refine ⟨⟨by decide, by decide, by decide, by decide⟩, fun h => ?_, ⟨by decide, by decide, by decide, by decide⟩, rfl⟩
  simp [State.owned, answered, midRead, midst] at h

/-- OnlyTheSpecsFaults: a sound busy block faults by another master's write, and by its read, of the pair. -/
theorem witness_sound_interleaved :
    SequencerCoherent { midRead .data1 with agenda := [.portWrite 9 0xCFC#16 0#32] } ∧
      ResponseLatchSound { midRead .data1 with agenda := [.portWrite 9 0xCFC#16 0#32] } ∧
      step { midRead .data1 with agenda := [.portWrite 9 0xCFC#16 0#32] } =
        .fault (.portPairInterleaved ⟨.other 9, .write, 0xCFC#16, 0#32⟩) ∧
      SequencerCoherent { midRead .data1 with agenda := [.portRead 9 0xCF8#16] } ∧
      ResponseLatchSound { midRead .data1 with agenda := [.portRead 9 0xCF8#16] } ∧
      step { midRead .data1 with agenda := [.portRead 9 0xCF8#16] } =
        .fault (.portPairInterleaved ⟨.other 9, .read, 0xCF8#16, (midRead .data1).answer 0xCF8#16⟩) := by
  refine ⟨fun _ => ⟨.readWord 0#8 5#5 0#3 0x02#8, by decide, by decide, by decide, by decide⟩,
    ⟨by decide, by decide, by decide, by decide⟩, rfl,
    fun _ => ⟨.readWord 0#8 5#5 0#3 0x02#8, by decide, by decide, by decide, by decide⟩,
    ⟨by decide, by decide, by decide, by decide⟩, rfl⟩

/-- ResponseLatchStaysSound: the answered block steps on. -/
theorem witness_latch_step : step answered = .next answered := rfl

/-- AddressBeforeDataIsKept: a block about to read its data port obeys the discipline, with its write on record. -/
theorem witness_discipline :
    PortDiscipline { midRead .data1 with history := [⟨.block, .write, 0xCF8#16, 0x80002800#32⟩] } := by
  refine ⟨?_, by decide, by decide⟩
  intro pre e post h _ hp
  rcases pre with _ | ⟨x, pre⟩
  · have he : e = ⟨.block, .write, 0xCF8#16, 0x80002800#32⟩ := by simp_all
    rw [he] at hp
    exact absurd hp (by decide)
  · simp at h

/-- RequestIsHeldToTheEnd, OnlyResetCancels, OneEventPerStep, LatchChangesOnlyByAddressWrites: a busy block that steps on,
once to a further phase and once to IDLE, with no reset next. -/
theorem witness_busy_steps :
    (∀ w ∈ [midRead .addr1, midst .data1 0x123480002806#48 0x80002804#32], step w = .next (after (step w)) ∧
      w.phase ≠ .idle ∧ ∀ rest, w.agenda ≠ .reset :: rest) ∧
    (after (step (midRead .addr1))).phase ≠ .idle ∧
    (after (step (midst .data1 0x123480002806#48 0x80002804#32))).phase = .idle := by
  refine ⟨?_, by decide, by decide⟩
  intro w hw
  rcases List.mem_cons.1 hw with rfl | hw
  · exact ⟨rfl, by decide, fun _ h => by cases h⟩
  · rw [List.mem_singleton.1 hw]
    exact ⟨rfl, by decide, fun _ h => by cases h⟩

/-- IdleBlockKeepsItsRegisters: an idle block whose next turn is a read of RESP_VALID. -/
theorem witness_idle_turn :
    step (planned [.readResponse 5 .valid]) = .next (after (step (planned [.readResponse 5 .valid]))) ∧
      (planned [.readResponse 5 .valid]).phase = .idle ∧
      ∀ u rest, (planned [.readResponse 5 .valid]).agenda = u :: rest →
        u ≠ .reset ∧ (∀ r w, u ≠ .issue r w) ∧ ∀ r c, u ≠ .call r c := by
  refine ⟨rfl, rfl, fun u rest h => ?_⟩
  have hu : u = .readResponse 5 .valid := by
    have := (List.cons.inj h).1
    exact this.symm
  subst hu
  exact ⟨by decide, (fun r w h => by cases h), (fun r c h => by cases h)⟩

/-- EveryQueuedCommandIsAnswered: a busy block with a legal and an illegal word queued. -/
theorem witness_queue :
    SequencerCoherent { midRead .addr1 with agenda := [.issue 1 0x000000FFFFFF#48, .issue 2 0x000001000000#48] } ∧
      ({ midRead .addr1 with agenda := [.issue 1 0x000000FFFFFF#48, .issue 2 0x000001000000#48] } : State).agenda =
        [(1, 0x000000FFFFFF#48), (2, 0x000001000000#48)].map (fun q => Turn.issue q.1 q.2) ∧
      (∃ i, decode 0x000000FFFFFF#48 = .legal i) ∧ ∃ why, decode 0x000001000000#48 = .illegal why :=
  ⟨fun _ => ⟨.readWord 0#8 5#5 0#3 0x02#8, by decide, by decide, by decide, by decide⟩, rfl,
    ⟨.encode 0xFF#8 31#5 7#3 0xFF#8, by decide⟩, ⟨.reservedBits, by decide⟩⟩

end Sys2Proof.Tests
end

section
/-! Decode by its checks (30_encoding.md rules R73 to R75): the words that pass R74's checks, the rows of R73 that select
them, and the response to the others (60_exceptions.md rule R142). -/

namespace Sys2Proof

variable (w : CmdWord)

/-! ### A word by its fields -/

/-- `cmd[23:11]`, the bus and slot bits, which no check of R74 and no mask of R73 looks at. -/
def busSlotBits : BitVec 13 := w.extractLsb' 11 13

/-- A word is its fields side by side (R71), `func` and `offset` taken together as in R74. -/
theorem word_eq_append :
    w = dataField w ++ opField w ++ rsvField w ++ busSlotBits w ++ funcOffsetBits w := by
  simp only [dataField, opField, rsvField, busSlotBits, funcOffsetBits]
  rw [BitVec.extractLsb'_append_extractLsb'_eq_extractLsb' (by rfl),
    BitVec.extractLsb'_append_extractLsb'_eq_extractLsb' (by rfl),
    BitVec.extractLsb'_append_extractLsb'_eq_extractLsb' (by rfl),
    BitVec.extractLsb'_append_extractLsb'_eq_extractLsb' (by rfl), BitVec.extractLsb'_eq_self]

/-- Two words are equal exactly when their fields are. -/
theorem word_eq_iff_fields (v : CmdWord) :
    v = w ↔ dataField v = dataField w ∧ opField v = opField w ∧ rsvField v = rsvField w ∧
      busSlotBits v = busSlotBits w ∧ funcOffsetBits v = funcOffsetBits w := by
  refine ⟨fun h => by simp [h], fun ⟨hd, ho, hr, hb, hf⟩ => ?_⟩
  rw [word_eq_append v, word_eq_append w, hd, ho, hr, hb, hf]

/-- `cmd & mask == match` compares field by field. -/
theorem and_eq_iff_fields (m p : CmdWord) :
    w &&& m = p ↔ dataField w &&& dataField m = dataField p ∧ opField w &&& opField m = opField p ∧
      rsvField w &&& rsvField m = rsvField p ∧ busSlotBits w &&& busSlotBits m = busSlotBits p ∧
      funcOffsetBits w &&& funcOffsetBits m = funcOffsetBits p := by
  rw [word_eq_iff_fields]
  simp only [dataField, opField, rsvField, busSlotBits, funcOffsetBits, BitVec.extractLsb'_and]

/-! ### The three checks of R74 -/

/-- The word passes the three checks of R74. -/
def PassesChecks : Prop :=
  rsvField w = 0#6 ∧ (opField w ≠ 0b10#2 → dataField w = 0#16) ∧ (opField w = 0b11#2 → funcOffsetBits w = 0#11)

variable {w}

/-- A word that passes the checks decodes to the command that its `op` selects (R74). -/
theorem decode_eq_legal (h : PassesChecks w) : decode w = .legal (selectCommand w) := by
  obtain ⟨hrsv, hdata, hprobe⟩ := h
  rw [decode, if_neg (not_not.2 hrsv), if_neg fun c => c.2 (hdata c.1), if_neg fun c => c.2 (hprobe c.1)]

/-- `op` 00 selects ENCODE (R73). -/
theorem selectCommand_encode (h : opField w = 0b00#2) :
    selectCommand w = .encode (busField w) (slotField w) (funcField w) (offsetField w) := by simp [selectCommand, h]

/-- `op` 01 selects READ_WORD (R73). -/
theorem selectCommand_readWord (h : opField w = 0b01#2) :
    selectCommand w = .readWord (busField w) (slotField w) (funcField w) (offsetField w) := by simp [selectCommand, h]

/-- `op` 10 selects WRITE_WORD (R73). -/
theorem selectCommand_writeWord (h : opField w = 0b10#2) :
    selectCommand w = .writeWord (busField w) (slotField w) (funcField w) (offsetField w) (dataField w) := by
  simp [selectCommand, h]

/-- `op` 11 selects CHECK_VENDOR (R73). -/
theorem selectCommand_checkVendor (h : opField w = 0b11#2) :
    selectCommand w = .checkVendor (busField w) (slotField w) := by simp [selectCommand, h]

/-- A word is ILLEGAL exactly when it fails one of the three checks (R74, R75). -/
theorem exists_decode_eq_illegal_iff :
    (∃ why, decode w = .illegal why) ↔
      rsvField w ≠ 0#6 ∨ (opField w ≠ 0b10#2 ∧ dataField w ≠ 0#16) ∨ (opField w = 0b11#2 ∧ funcOffsetBits w ≠ 0#11) := by
  unfold decode
  split_ifs with hrsv hdata hprobe
  · exact iff_of_true ⟨_, rfl⟩ (.inl hrsv)
  · exact iff_of_true ⟨_, rfl⟩ (.inr (.inl hdata))
  · exact iff_of_true ⟨_, rfl⟩ (.inr (.inr hprobe))
  · simp [hrsv, hdata, hprobe]

/-- A word decodes to a command exactly when it passes the checks (R74). -/
theorem exists_decode_eq_legal_iff : (∃ i, decode w = .legal i) ↔ PassesChecks w := by
  refine ⟨fun ⟨i, hi⟩ => ?_, fun h => ⟨_, decode_eq_legal h⟩⟩
  have hno : ¬ ∃ why, decode w = .illegal why := by simp [hi]
  simpa [exists_decode_eq_illegal_iff, PassesChecks] using hno

/-! ### The rows of R73 -/

/-- The masks of R73 by field: `op` and `rsv` whole, `data` except in WRITE_WORD, `func` and `offset` in CHECK_VENDOR alone. -/
theorem opcodeRows_mask : ∀ row ∈ opcodeRows,
    opField row.mask = .allOnes 2 ∧ rsvField row.mask = .allOnes 6 ∧ busSlotBits row.mask = 0#13 ∧
      dataField row.mask = (if opField row.pattern = 0b10#2 then 0#16 else .allOnes 16) ∧
      funcOffsetBits row.mask = (if opField row.pattern = 0b11#2 then .allOnes 11 else 0#11) := by
  decide

/-- The patterns of R73 are zero outside `op`. -/
theorem opcodeRows_pattern : ∀ row ∈ opcodeRows,
    rsvField row.pattern = 0#6 ∧ busSlotBits row.pattern = 0#13 ∧ dataField row.pattern = 0#16 ∧
      funcOffsetBits row.pattern = 0#11 := by
  decide

/-- A bit vector under a mask that is whole or empty is zero exactly when it is zero or the mask is empty. -/
theorem and_ite_allOnes_eq_zero {n : Nat} {c : Prop} [Decidable c] (x : BitVec n) :
    x &&& (if c then .allOnes n else 0#n) = 0#n ↔ (c → x = 0#n) := by
  split_ifs with h <;> simp [h]

/-- A row of R73 selects exactly the words that pass the checks and have the `op` of the row's pattern. -/
theorem selects_iff {row : OpcodeRow} (hrow : row ∈ opcodeRows) :
    row.selects w = true ↔ PassesChecks w ∧ opField w = opField row.pattern := by
  obtain ⟨mop, mrsv, mbus, mdata, mprobe⟩ := opcodeRows_mask row hrow
  obtain ⟨prsv, pbus, pdata, pprobe⟩ := opcodeRows_pattern row hrow
  rw [OpcodeRow.selects, beq_iff_eq, and_eq_iff_fields, mop, mrsv, mbus, mdata, mprobe, prsv, pbus, pdata, pprobe,
    ← ite_not, and_ite_allOnes_eq_zero, and_ite_allOnes_eq_zero, BitVec.and_allOnes, BitVec.and_allOnes,
    BitVec.and_zero]
  exact ⟨fun ⟨hdata, hop, hrsv, _, hprobe⟩ => ⟨⟨hrsv, hop ▸ hdata, hop ▸ hprobe⟩, hop⟩,
    fun ⟨⟨hrsv, hdata, hprobe⟩, hop⟩ => ⟨hop ▸ hdata, hop, hrsv, rfl, hop ▸ hprobe⟩⟩

/-- Every `op` is the `op` of exactly one row's pattern. -/
theorem length_filter_op_eq_one : ∀ op : BitVec 2, (opcodeRows.filter fun row => op == opField row.pattern).length = 1 := by
  decide

/-- Exactly one row of R73 selects a word exactly when it passes the checks (R74). -/
theorem length_filter_selects_eq_one_iff :
    (opcodeRows.filter fun row => row.selects w).length = 1 ↔ PassesChecks w := by
  by_cases h : PassesChecks w
  · rw [← length_filter_op_eq_one (opField w)]
    refine iff_of_true (congrArg _ (List.filter_congr fun row hrow => ?_)) h
    rw [Bool.eq_iff_iff, selects_iff hrow]
    simp [h]
  · have hnone : (opcodeRows.filter fun row => row.selects w) = [] :=
      List.filter_eq_nil_iff.2 fun row hrow hs => h ((selects_iff hrow).1 hs).1
    simp [hnone, h]

/-- Some row of R73 selects a word exactly when it passes the checks (R74). -/
theorem exists_selects_iff : (∃ row ∈ opcodeRows, row.selects w = true) ↔ PassesChecks w := by
  refine ⟨fun ⟨row, hrow, hs⟩ => ((selects_iff hrow).1 hs).1, fun h => ?_⟩
  obtain ⟨row, hfilter⟩ := List.length_eq_one_iff.1 (length_filter_selects_eq_one_iff.2 h)
  have hmem : row ∈ opcodeRows.filter fun row => row.selects w := by simp [hfilter]
  exact ⟨row, List.mem_filter.1 hmem⟩

/-- Settles O2: to decode to a command, to be selected by one row and to be selected by some row are each `PassesChecks`. -/
theorem decodeFollowsItsChecks : Obligations.DecodeFollowsItsChecks := by
  intro w
  refine ⟨fun h => exists_decode_eq_illegal_iff.2 (.inl h),
    fun hop hdata => exists_decode_eq_illegal_iff.2 (.inr (.inl ⟨hop, hdata⟩)),
    fun hop hprobe => exists_decode_eq_illegal_iff.2 (.inr (.inr ⟨hop, hprobe⟩)), fun hrsv hdata hprobe => ?_,
    exists_decode_eq_legal_iff.trans length_filter_selects_eq_one_iff.symm,
    exists_decode_eq_legal_iff.trans exists_selects_iff.symm⟩
  rw [decode_eq_legal ⟨hrsv, hdata, hprobe⟩]
  exact ⟨fun hop => congrArg _ (selectCommand_encode hop), fun hop => congrArg _ (selectCommand_readWord hop),
    fun hop => congrArg _ (selectCommand_writeWord hop), fun hop => congrArg _ (selectCommand_checkVendor hop)⟩

namespace Machine

variable {s : State}

/-- Going to the phase the block is in changes nothing. -/
theorem State.goto_self {p : Phase} (h : s.phase = p) : s.goto p = s := by rw [← h]; rfl

/-- A request at IDLE is issued (R78). -/
theorem requestTurn_idle (h : s.phase = .idle) (r : Nat) (w : CmdWord) (rest : List Turn) :
    requestTurn r w rest s = issueStep r w (s.setAgenda rest) := by
  rw [requestTurn, s.not_owned_iff.2 h, if_neg Bool.false_ne_true]

/-- The issue step of an ILLEGAL word is its response (R142). -/
theorem issueStep_illegal {w : CmdWord} {why : IllegalWord} (h : decode w = .illegal why) (r : Nat) :
    issueStep r w s = .next (s.latchRequest r w).respondIllegal := by rw [issueStep, h]

/-- Settles O26: the illegal words are those that fail a check, and at IDLE their response is the whole step. -/
theorem illegalCommandResponse : Obligations.IllegalCommandResponse := by
  intro s r w rest
  refine ⟨exists_decode_eq_illegal_iff, fun hidle hturn ⟨why, hw⟩ => ?_⟩
  have hphase : (((s.setAgenda rest).latchRequest r w).respond statusIllegalCommand 0#32).phase = .idle := hidle
  rw [step_turn hturn, agentStep, requestTurn_idle hidle, issueStep_illegal hw, State.respondIllegal_eq,
    State.goto_self hphase]
  rfl

end Machine

end Sys2Proof
end

section
/-! The ConfigAddress encoder (40_encoder.md rules R100 to R102): its two forms, the fields of an address, and its image. -/

namespace Sys2Proof.Machine

/-! ### Words by their fields -/

/-- Two concatenations of the same widths are equal exactly when their parts are. -/
theorem append_eq_append_iff {m n : Nat} {x x' : BitVec m} {y y' : BitVec n} : x ++ y = x' ++ y' ↔ x = x' ∧ y = y' := by
  refine ⟨fun h => ⟨?_, ?_⟩, fun ⟨hx, hy⟩ => by rw [hx, hy]⟩
  · simpa only [BitVec.extractLsb'_append_eq_left] using congrArg (·.extractLsb' n m) h
  · simpa only [BitVec.extractLsb'_append_eq_right] using congrArg (·.extractLsb' 0 n) h

/-- A dword is its fields side by side, cut as R100 cuts a ConfigAddress. -/
theorem dword_eq_append (v : Dword) :
    v = v.extractLsb' 31 1 ++ v.extractLsb' 24 7 ++ v.extractLsb' 16 8 ++ v.extractLsb' 11 5 ++ v.extractLsb' 8 3 ++
      v.extractLsb' 2 6 ++ v.extractLsb' 0 2 := by
  rw [BitVec.extractLsb'_append_extractLsb'_eq_extractLsb' (by rfl),
    BitVec.extractLsb'_append_extractLsb'_eq_extractLsb' (by rfl),
    BitVec.extractLsb'_append_extractLsb'_eq_extractLsb' (by rfl),
    BitVec.extractLsb'_append_extractLsb'_eq_extractLsb' (by rfl),
    BitVec.extractLsb'_append_extractLsb'_eq_extractLsb' (by rfl),
    BitVec.extractLsb'_append_extractLsb'_eq_extractLsb' (by rfl), BitVec.extractLsb'_eq_self]

/-! ### The two forms of R100 -/

variable (b : Bus) (s : Slot) (f : Func) (o : Offset)

/-- The OR of R100 is the concatenation of the fields: each bit of the address belongs to one operand of the OR. -/
theorem configAddress_eq_append :
    configAddress b s f o = 1#1 ++ 0#7 ++ b ++ s ++ f ++ o.extractLsb' 2 6 ++ 0#2 := by
  apply BitVec.eq_of_getLsbD_eq
  intro k hk
  simp only [configAddress, BitVec.getLsbD_or, BitVec.getLsbD_and, BitVec.getLsbD_shiftLeft, BitVec.getLsbD_setWidth,
    BitVec.getLsbD_append, BitVec.getLsbD_extractLsb']
  interval_cases k <;> simp

/-- Settles O6: the first form is the definition, the second is `configAddress_eq_append`. -/
theorem configAddressFormula : Obligations.ConfigAddressFormula :=
  fun b s f o => ⟨rfl, configAddress_eq_append b s f o⟩

/-! ### The laws of R102 -/

variable {b s f o}

/-- A dword is the ConfigAddress of the coordinates exactly when its fields are theirs (R102, laws 1 to 4 and 6). -/
theorem eq_configAddress_iff {v : Dword} :
    v = configAddress b s f o ↔
      v.extractLsb' 31 1 = 1#1 ∧ v.extractLsb' 24 7 = 0#7 ∧ v.extractLsb' 16 8 = b ∧ v.extractLsb' 11 5 = s ∧
        v.extractLsb' 8 3 = f ∧ v.extractLsb' 2 6 = o.extractLsb' 2 6 ∧ v.extractLsb' 0 2 = 0#2 := by
  rw [configAddress_eq_append]
  conv_lhs => rw [dword_eq_append v]
  rw [append_eq_append_iff (m := 1 + 7 + 8 + 5 + 3 + 6)]
  simp only [append_eq_append_iff, and_assoc]

/-- Two addresses are equal exactly when the bus, slot, function and dword index are (R102, law 6). -/
theorem configAddress_inj {b' : Bus} {s' : Slot} {f' : Func} {o' : Offset} :
    configAddress b s f o = configAddress b' s' f' o' ↔
      b = b' ∧ s = s' ∧ f = f' ∧ o.extractLsb' 2 6 = o'.extractLsb' 2 6 := by
  rw [configAddress_eq_append, configAddress_eq_append, append_eq_append_iff (m := 1 + 7 + 8 + 5 + 3 + 6)]
  simp only [append_eq_append_iff, true_and, and_true, and_assoc]

/-- The mask `0xFC` keeps the offset's bits 7:2. -/
theorem extractLsb'_and_fc (o : Offset) : (o &&& 0xFC#8).extractLsb' 2 6 = o.extractLsb' 2 6 := by
  have hmask : (0xFC#8).extractLsb' 2 6 = .allOnes 6 := by decide
  rw [BitVec.extractLsb'_and, hmask, BitVec.and_allOnes]

/-- The image of the encoder is the words with bit 31 set and bits 30:24 and 1:0 clear (R102, law 7). -/
theorem exists_eq_configAddress_iff {v : Dword} :
    (∃ b s f o, v = configAddress b s f o) ↔
      v.extractLsb' 31 1 = 1#1 ∧ v.extractLsb' 24 7 = 0#7 ∧ v.extractLsb' 0 2 = 0#2 := by
  constructor
  · rintro ⟨b, s, f, o, h⟩
    obtain ⟨henable, hzero, -, -, -, -, hlow⟩ := eq_configAddress_iff.1 h
    exact ⟨henable, hzero, hlow⟩
  · rintro ⟨henable, hzero, hlow⟩
    exact ⟨_, _, _, v.extractLsb' 2 6 ++ 0#2,
      eq_configAddress_iff.2 ⟨henable, hzero, rfl, rfl, rfl, BitVec.extractLsb'_append_eq_left.symm, hlow⟩⟩

/-- The ConfigAddress with the number `n` in its bits 23:2, where the coordinates stand. -/
def numberedAddress (n : BitVec 22) : Dword := 1#1 ++ 0#7 ++ n ++ 0#2

/-- Different numbers give different addresses. -/
theorem numberedAddress_injective : Function.Injective numberedAddress := by
  intro m n h
  rw [numberedAddress, numberedAddress, append_eq_append_iff (m := 1 + 7 + 22)] at h
  simpa only [append_eq_append_iff, true_and, and_true] using h

/-- A dword has a number exactly when it is in the image of the encoder (R102, law 7). -/
theorem exists_numberedAddress_eq_iff {v : Dword} :
    (∃ n, numberedAddress n = v) ↔ ∃ b s f o, v = configAddress b s f o := by
  have hfields : v = v.extractLsb' 31 1 ++ v.extractLsb' 24 7 ++ v.extractLsb' 2 22 ++ v.extractLsb' 0 2 := by
    rw [BitVec.extractLsb'_append_extractLsb'_eq_extractLsb' (by rfl),
      BitVec.extractLsb'_append_extractLsb'_eq_extractLsb' (by rfl),
      BitVec.extractLsb'_append_extractLsb'_eq_extractLsb' (by rfl), BitVec.extractLsb'_eq_self]
  rw [exists_eq_configAddress_iff]
  constructor
  · rintro ⟨n, h⟩
    rw [numberedAddress, hfields, append_eq_append_iff (m := 1 + 7 + 22)] at h
    simp only [append_eq_append_iff] at h
    obtain ⟨⟨⟨henable, hzero⟩, -⟩, hlow⟩ := h
    exact ⟨henable.symm, hzero.symm, hlow.symm⟩
  · rintro ⟨henable, hzero, hlow⟩
    refine ⟨v.extractLsb' 2 22, ?_⟩
    rw [numberedAddress, ← henable, ← hzero, ← hlow, ← hfields]

/-- Settles O7: laws 1 to 4 are the fields of an address, 5 and 6 say when two addresses are equal, and law 7's count
numbers the image by the bits 23:2. -/
theorem encoderLaws : Obligations.EncoderLaws := by
  refine ⟨fun b s f o => ?_, fun _ _ _ _ _ _ _ _ => configAddress_inj, fun _ => exists_eq_configAddress_iff,
    numberedAddress ∘ BitVec.ofFin, ?_, fun v => ?_⟩
  · obtain ⟨henable, hzero, hbus, hslot, hfunc, hindex, hlow⟩ := eq_configAddress_iff.1 (rfl : configAddress b s f o = _)
    exact ⟨henable, hlow, hzero, hbus, hslot, hfunc, hindex,
      configAddress_inj.2 ⟨rfl, rfl, rfl, (extractLsb'_and_fc o).symm⟩⟩
  · exact numberedAddress_injective.comp BitVec.equivFin.symm.injective
  · exact (BitVec.equivFin.symm.surjective.exists (p := (numberedAddress · = v))).symm.trans exists_numberedAddress_eq_iff

end Sys2Proof.Machine
end

section
/-! A word of a row of R73, issued at IDLE: its issue step is the issue action of the row's command (30_encoding.md rule
R78), and for ENCODE the whole command (40_encoder.md rule R101). -/

namespace Sys2Proof

variable {w : CmdWord}

/-- A word that a row of R73 selects decodes to the command of its `op`, which is the row's. -/
theorem decode_of_row {row : OpcodeRow} (hrow : row ∈ opcodeRows) (h : w &&& row.mask = row.pattern) :
    decode w = .legal (selectCommand w) ∧ opField w = opField row.pattern :=
  ((selects_iff hrow).1 (beq_iff_eq.2 h)).imp_left decode_eq_legal

/-- A word of ENCODE's row decodes to ENCODE with the coordinates of its fields. -/
theorem decode_encode_row (h : w &&& 0xFFFFFF000000#48 = 0x000000000000#48) :
    decode w = .legal (.encode (busField w) (slotField w) (funcField w) (offsetField w)) := by
  obtain ⟨hlegal, hop⟩ := decode_of_row (row := ⟨"ENCODE", 0xFFFFFF000000#48, 0x000000000000#48⟩)
    (List.mem_cons_self ..) h
  rw [hlegal, selectCommand_encode (hop.trans (by decide))]

namespace Machine

variable {s : State}

/-- The issue step of a legal word is its command's issue action, after REQ is latched (R78). -/
theorem issueStep_legal {i : Instr} (h : decode w = .legal i) (r : Nat) :
    issueStep r w s = exec i (s.latchRequest r w) := by rw [issueStep, h]

/-- At IDLE, the step that has a legal word's issue as its turn is the command's issue action (R78). -/
theorem step_issue_legal {r : Nat} {rest : List Turn} {i : Instr} (hidle : s.phase = .idle)
    (hturn : s.agenda = .issue r w :: rest) (hw : decode w = .legal i) :
    step s = exec i ((s.setAgenda rest).latchRequest r w) := by
  rw [step_turn hturn, agentStep, requestTurn_idle hidle, issueStep_legal hw]

/-- At IDLE, ENCODE answers with the ConfigAddress and the phase stays IDLE (R101). -/
theorem exec_encode_idle (hidle : s.phase = .idle) (b : Bus) (sl : Slot) (f : Func) (o : Offset) :
    exec (.encode b sl f o) s = .next (s.respond statusOk (configAddress b sl f o)) := by
  have hphase : (s.respond statusOk (configAddress b sl f o)).phase = .idle := hidle
  rw [exec, execEncode, hidle, State.complete_eq, State.goto_self hphase]

/-- Settles O19: the word decodes to ENCODE of its fields, and ENCODE's issue action is the whole command. -/
theorem encodeWordRun : Obligations.EncodeWordRun := by
  intro s r w rest hidle hturn hw
  refine ⟨_, rfl, runsTo_succ ?_ runsTo_zero⟩
  have hlatched : ((s.setAgenda rest).latchRequest r w).phase = .idle := hidle
  rw [step_issue_legal hidle hturn (decode_encode_row hw), exec_encode_idle hlatched]
  rfl

end Machine

end Sys2Proof
end

section
/-! The half selection by offset bit 1 (41_transport.md rule R111), and where READ_WORD's result stands (rules R110 and
R112). -/

namespace Sys2Proof.Machine

/-! ### The half selection -/

variable (v : Dword) (o : Offset)

/-- The half selection is the 16 bits from the shift's amount up: the mask removes nothing from them. -/
theorem halfSelect_eq_extractLsb' : halfSelect v o = v.extractLsb' ((o &&& 2#8) * 8#8).toNat 16 := by
  have hmask : (0x0000FFFF#32).setWidth 16 = .allOnes 16 := by decide
  rw [halfSelect, BitVec.setWidth_and, hmask, BitVec.and_allOnes, BitVec.ushiftRight_eq',
    BitVec.setWidth_ushiftRight_eq_extractLsb]

/-- The shift's amount, taken in 8 bits, is that of R111: it is 16 at most. -/
theorem toNat_halfShift : ((o &&& 2#8) * 8#8).toNat = (o.toNat &&& 2) * 8 := by
  have hle : o.toNat &&& 2 ≤ 2 := Nat.and_le_right
  have hlt : (o.toNat &&& 2) * 8 < 2 ^ 8 := by omega
  rw [BitVec.toNat_mul, BitVec.toNat_and]
  exact Nat.mod_eq_of_lt hlt

/-- The mask `2` keeps the offset's bit 1. -/
theorem offset_and_two : o &&& 2#8 = if o.extractLsb' 1 1 = 1#1 then 2#8 else 0#8 := by
  have htwo : BitVec.twoPow 8 1 = 2#8 := by decide
  simpa only [htwo, BitVec.getLsbD_eq_extractLsb', beq_iff_eq] using BitVec.and_twoPow o 1

/-- Offset bit 1 chooses between the upper and the lower half (R111). -/
theorem halfSelect_eq_ite :
    halfSelect v o = if o.extractLsb' 1 1 = 1#1 then v.extractLsb' 16 16 else v.extractLsb' 0 16 := by
  rw [halfSelect_eq_extractLsb', offset_and_two]
  split_ifs <;> rfl

/-- Settles O8: the first form is the definition with its shift's amount as a number, the second is
`halfSelect_eq_ite`. -/
theorem halfSelectionByOffsetBitOne : Obligations.HalfSelectionByOffsetBitOne := by
  refine fun v o => ⟨?_, halfSelect_eq_ite v o⟩
  rw [halfSelect, BitVec.ushiftRight_eq', toNat_halfShift]

/-! ### READ_WORD's result -/

/-- A widened word stands under sixteen zeros (R112, R116). -/
theorem widen_eq_append (w : Word) : widen w = 0#16 ++ w := BitVec.setWidth_eq_append (by decide)

variable {s : State}

/-- READ_WORD's DATA1 step reads the data port into D and answers with the selected half of D (R110). -/
theorem exec_readWord_data1 (hphase : s.phase = .data1) (b : Bus) (sl : Slot) (f : Func) (o : Offset) :
    exec (.readWord b sl f o) s = .next (s.readData.complete (widen (halfSelect s.readData.d o))) := by
  rw [exec, execReadWord, hphase]

/-- Settles O15: the response is the widened half of D, and completing the command leaves D as it was read. -/
theorem readResultIsZeroExtended : Obligations.ReadResultIsZeroExtended := by
  intro b sl f o s hphase
  refine ⟨_, exec_readWord_data1 hphase b sl f o, ?_⟩
  simp only [State.complete_eq, State.goto_respValue, State.goto_d, State.respond_respValue, State.respond_d,
    widen_eq_append]
  exact ⟨BitVec.extractLsb'_append_eq_right, BitVec.extractLsb'_append_eq_left⟩

end Sys2Proof.Machine
end

section
/-! The model interfaces' refusals and faults (60_exceptions.md): ProgrammingError (rule R144), ResponseNotValid with the
record of the issuer (rule R143), and PortPairInterleaved (rule R145). -/

namespace Sys2Proof

/-- The arguments of a call, each with the bound of its range (R144). -/
def WideCall.bounds (c : WideCall) : List (Operand × Nat × Nat) := c.arguments.map fun p => (p.1, p.2, p.1.bound)

/-- A row of a call's bounds is one of its arguments with that operand's bound. -/
theorem WideCall.mem_bounds {c : WideCall} {arg : Operand} {value bound : Nat} :
    (arg, value, bound) ∈ c.bounds ↔ (arg, value) ∈ c.arguments ∧ arg.bound = bound := by
  simp only [bounds, List.mem_map, Prod.mk.injEq, Prod.exists]
  constructor
  · rintro ⟨a, v, hmem, rfl, rfl, hbound⟩
    exact ⟨hmem, hbound⟩
  · rintro ⟨hmem, hbound⟩
    exact ⟨arg, value, hmem, rfl, rfl, hbound⟩

namespace Machine

variable {s t : State} {r : Nat} {c : WideCall} {rest : List Turn}

/-! ### Calls in wide numbers -/

/-- A call out of range is refused before any issue, whatever the phase (R144). -/
theorem step_call_outOfRange (hturn : s.agenda = .call r c :: rest) {arg : Operand} {value : Nat}
    (hcheck : checkCall c = .outOfRange arg value) : step s = .refused (.programmingError arg value) := by
  rw [step_turn hturn, agentStep, hcheck]

/-- A call in range is the request of the command with the call's numbers (R144). -/
theorem step_call_inRange (hturn : s.agenda = .call r c :: rest) (hrange : ∀ p ∈ c.arguments, p.2 < p.1.bound) :
    step s = requestTurn r (encode (narrowCall c)) rest s := by
  rw [step_turn hturn, agentStep, checkCall_of_inRange hrange]

/-- At IDLE a step whose turn is an issue is the issue step (R78). -/
theorem step_issue_idle {w : CmdWord} (hturn : s.agenda = .issue r w :: rest) (hidle : s.phase = .idle) :
    step s = issueStep r w (s.setAgenda rest) := by
  rw [step_turn hturn, agentStep, requestTurn_idle hidle]

/-- Settles O31: R144's bounds are `WideCall.bounds` of the call, so an argument at or above its bound is what `checkCall`
refuses, and a call with none is the request of `narrowCall c`. -/
theorem wideCallsAreChecked : Obligations.WideCallsAreChecked := by
  intro s r b sl f o d rest c bounds hform hturn
  have hbounds : bounds = c.bounds := by
    simp only [List.mem_cons, Prod.mk.injEq, List.not_mem_nil, or_false] at hform
    rcases hform with ⟨rfl, rfl⟩ | ⟨rfl, rfl⟩ | ⟨rfl, rfl⟩ | ⟨rfl, rfl⟩ <;> rfl
  subst hbounds
  constructor
  · rintro ⟨arg, value, bound, hmem, hout⟩
    obtain ⟨harg, rfl⟩ := WideCall.mem_bounds.1 hmem
    obtain ⟨arg', value', hcheck, harg', hout'⟩ := checkCall_of_outOfRange ⟨(arg, value), harg, hout⟩
    exact ⟨arg', value', arg'.bound, step_call_outOfRange hturn hcheck, WideCall.mem_bounds.2 ⟨harg', rfl⟩, hout'⟩
  · intro hin
    have hrange : ∀ p ∈ c.arguments, p.2 < p.1.bound := fun p hp => hin p.1 p.2 _ (WideCall.mem_bounds.2 ⟨hp, rfl⟩)
    refine ⟨narrowCall c, narrowCall_toCall hrange, fun hidle => ?_⟩
    have hissue : step { s with agenda := .issue r (encode (narrowCall c)) :: rest } =
        issueStep r (encode (narrowCall c)) (s.setAgenda rest) := step_issue_idle rfl hidle
    rw [step_call_inRange hturn hrange, requestTurn_idle hidle, hissue]

/-! ### Reads of the response interface, and the issuer on record -/

/-- A read of RESP_VALUE or RESP_STATUS that is not for the reader is ResponseNotValid (R143). -/
theorem readResponse_fault {g : RespReg} (hreg : g ≠ .valid) (hfor : s.responseIsFor r = false) :
    readResponse r g s = .fault (.responseNotValid r) := by
  rw [readResponse, if_neg hreg, if_pos hfor]

/-- There is no response for a requester when RESP_VALID is 0 or another issued the command (R143). -/
theorem State.responseIsFor_eq_false_iff :
    s.responseIsFor r = false ↔ s.respValid = false ∨ s.issuer ≠ some r := by
  simp [State.responseIsFor, imp_iff_not_or]

/-- A command's transition leaves REQ and the issuer on record as they are (R78, R143). -/
theorem exec_keeps_request {i : Instr} (h : exec i s = .next t) : t.req = s.req ∧ t.issuer = s.issuer := by
  rcases exec_next h with ⟨-, rfl, -⟩ | ⟨-, rfl, -⟩ | ⟨-, rfl, -⟩ | ⟨-, rfl, -⟩ | ⟨-, v, rfl⟩ | ⟨-, v, rfl⟩ |
    ⟨-, b, sl, -, rfl⟩ <;> exact ⟨rfl, rfl⟩

/-- At IDLE a command's transition, its issue action, goes on (R78). -/
theorem exec_idle_goes_on (hidle : s.phase = .idle) (i : Instr) : ∃ t, exec i s = .next t := by
  by_contra hstops
  obtain ⟨-, hbusy, -⟩ := exec_stops (not_exists.1 hstops)
  exact hbusy hidle

/-- The issue step at IDLE goes on, and records the word in REQ and its requester beside it (R78, R143). -/
theorem issueStep_records_request (hidle : s.phase = .idle) (r : Nat) (w : CmdWord) :
    ∃ t, issueStep r w s = .next t ∧ t.req = w ∧ t.issuer = some r := by
  have hlatched : (s.latchRequest r w).phase = .idle := hidle
  cases hw : decode w with
  | legal i =>
    obtain ⟨t, ht⟩ := exec_idle_goes_on hlatched i
    exact ⟨t, (issueStep_legal hw r).trans ht, exec_keeps_request ht⟩
  | illegal why => exact ⟨_, issueStep_illegal hw r, rfl, rfl⟩

/-- Settles O27: the read finds no response for its reader, and an issue at IDLE is the issue step. -/
theorem unreadyResponseFaults : Obligations.UnreadyResponseFaults := by
  refine ⟨fun s r g rest hturn hreg hunready => ?_, fun s r w rest hturn hidle => ?_⟩
  · have hfor : (s.setAgenda rest).responseIsFor r = false := State.responseIsFor_eq_false_iff.2 hunready
    rw [step_turn hturn, agentStep, readResponse_fault hreg hfor]
  · have hafter : (s.setAgenda rest).phase = .idle := hidle
    rw [step_issue_idle hturn hidle]
    exact issueStep_records_request hafter r w

/-! ### Another master on the port pair -/

/-- The port pair is 0xCF8 and 0xCFC (R13, R58). -/
theorem isPairPort_iff {p : IoPort} : isPairPort p = true ↔ p = 0xCF8#16 ∨ p = 0xCFC#16 := by
  simp [isPairPort, Config.addrPort, Config.dataPort]

/-- Another master's write to the pair while the block owns it is PortPairInterleaved (R145). -/
theorem otherWrite_fault {p : IoPort} (howned : s.owned = true) (hpair : isPairPort p = true) (m : Nat) (v : Dword) :
    otherWrite m p v s = .fault (.portPairInterleaved ⟨.other m, .write, p, v⟩) := by
  rw [otherWrite, howned, hpair, Bool.and_self, if_pos rfl]

/-- Another master's read of the pair while the block owns it is PortPairInterleaved (R145). -/
theorem otherRead_fault {p : IoPort} (howned : s.owned = true) (hpair : isPairPort p = true) (m : Nat) :
    otherRead m p s = .fault (.portPairInterleaved ⟨.other m, .read, p, s.answer p⟩) := by
  rw [otherRead, howned, hpair, Bool.and_self, if_pos rfl]

/-- Settles O29: outside IDLE the block owns the pair, and dropping the turn from the agenda changes no answer. -/
theorem interleavedAccessFaults : Obligations.InterleavedAccessFaults := by
  intro s m p v rest hbusy hport
  have howned : (s.setAgenda rest).owned = true := s.owned_iff.2 hbusy
  have hpair : isPairPort p = true := isPairPort_iff.2 hport
  refine ⟨fun hturn => ?_, fun hturn => ?_⟩
  · rw [step_turn hturn, agentStep, otherWrite_fault howned hpair]
  · rw [step_turn hturn, agentStep, otherRead_fault howned hpair, State.setAgenda_answer]

end Machine

end Sys2Proof
end

section
/-! Reset (70_reset_and_hazards.md rule R160), and the rest of an idle block with no turn to come (10_state.md rule R21). -/

namespace Sys2Proof.Machine

variable {s : State}

/-- At IDLE the sequencer has no step (R21). -/
theorem sequencerStep_idle (hidle : s.phase = .idle) : sequencerStep s = .next s := by
  rw [sequencerStep, s.not_owned_iff.2 hidle, if_neg Bool.false_ne_true]

/-- An idle block with no turn to come stays as it is, however long it runs (R21). -/
theorem runsTo_self_of_idle (hidle : s.phase = .idle) (hagenda : s.agenda = []) (n : Nat) : RunsTo n s s := by
  have hstep : step s = .next s := (step_no_turn hagenda).trans (sequencerStep_idle hidle)
  induction n with
  | zero => exact runsTo_zero
  | succ n ih => exact runsTo_succ hstep ih

/-- A turn of reset resets the block, whatever its phase (R160). -/
theorem step_reset {rest : List Turn} (hturn : s.agenda = .reset :: rest) :
    step s = .next (s.setAgenda rest).resetBlock := by
  rw [step_turn hturn, agentStep]

/-- Settles O32: reset leaves the block at IDLE and the observation as it is, and an idle block with no turn to come
rests. -/
theorem resetAbandonsTheCommand : Obligations.ResetAbandonsTheCommand := by
  intro s rest hturn
  have hidle : (s.setAgenda rest).resetBlock.phase = .idle := State.resetBlock_phase _
  exact ⟨_, step_reset hturn, hidle, State.resetBlock_respValid _, (State.not_owned_iff _).2 hidle,
    State.resetBlock_history _, State.resetBlock_responses _, State.resetBlock_readings _, State.resetBlock_agenda _,
    fun hrest => runsTo_self_of_idle hidle hrest⟩

end Sys2Proof.Machine
end

section
/-! Encode and decode agree (30_encoding.md rules R70 to R74): the word of a command decodes to it, and no other word does. -/

namespace Sys2Proof

/-- Settles O1: `decode` is evaluated on each of the eight words. -/
theorem testVectorWordsDecode : Obligations.TestVectorWordsDecode := by
  unfold Obligations.TestVectorWordsDecode
  decide

/-! ### The word of a command -/

/-- A packed word whose `data`, `func` and `offset` are as its `op` asks (R74) decodes to the command of that `op`. -/
theorem decode_packWord {d : Word} {op : BitVec 2} {b : Bus} {s : Slot} {f : Func} {o : Offset}
    (hdata : op ≠ 0b10#2 → d = 0#16) (hprobe : op = 0b11#2 → f ++ o = 0#11) :
    decode (packWord d op b s f o) = .legal (selectCommand (packWord d op b s f o)) := by
  refine decode_eq_legal ⟨rsvField_packWord .., ?_, ?_⟩
  · rwa [opField_packWord, dataField_packWord]
  · rwa [opField_packWord, funcOffsetBits_packWord]

/-- Decoding the word of a command gives the command back, with every operand. -/
theorem decode_encode (i : Instr) : decode (encode i) = .legal i := by
  cases i with
  | encode b s f o =>
    rw [encode, decode_packWord (fun _ => rfl) fun h => absurd h (by decide),
      selectCommand_encode (opField_packWord ..),
      busField_packWord, slotField_packWord, funcField_packWord, offsetField_packWord]
  | readWord b s f o =>
    rw [encode, decode_packWord (fun _ => rfl) fun h => absurd h (by decide),
      selectCommand_readWord (opField_packWord ..),
      busField_packWord, slotField_packWord, funcField_packWord, offsetField_packWord]
  | writeWord b s f o d =>
    rw [encode, decode_packWord (absurd rfl) fun h => absurd h (by decide),
      selectCommand_writeWord (opField_packWord ..),
      busField_packWord, slotField_packWord, funcField_packWord, offsetField_packWord, dataField_packWord]
  | checkVendor b s =>
    rw [encode, decode_packWord (fun _ => rfl) (fun _ => rfl), selectCommand_checkVendor (opField_packWord ..),
      busField_packWord, slotField_packWord]

/-- Settles O3: `decode_encode` is the statement. -/
theorem encodedCommandsDecodeBack : Obligations.EncodedCommandsDecodeBack := decode_encode

/-! ### The command of a word -/

variable {w : CmdWord}

/-- The `func` and `offset` bits are the two fields side by side (R72). -/
theorem funcOffsetBits_eq_append : funcOffsetBits w = funcField w ++ offsetField w := by
  rw [funcOffsetBits, funcField, offsetField, BitVec.extractLsb'_append_extractLsb'_eq_extractLsb' (by rfl)]

/-- The bus and slot bits are the two fields side by side (R72). -/
theorem busSlotBits_eq_append : busSlotBits w = busField w ++ slotField w := by
  rw [busSlotBits, busField, slotField, BitVec.extractLsb'_append_extractLsb'_eq_extractLsb' (by rfl)]

/-- A word whose `rsv` is zero is the packing of its fields (R71). -/
theorem packWord_fields (hrsv : rsvField w = 0#6) :
    packWord (dataField w) (opField w) (busField w) (slotField w) (funcField w) (offsetField w) = w := by
  rw [word_eq_iff_fields, dataField_packWord, opField_packWord, rsvField_packWord, funcOffsetBits_packWord,
    busSlotBits_eq_append, busField_packWord, slotField_packWord]
  exact ⟨rfl, rfl, hrsv.symm, busSlotBits_eq_append.symm, funcOffsetBits_eq_append.symm⟩

/-- `op` has four values, one for each row of R73. -/
theorem op_cases : ∀ op : BitVec 2, op = 0b00#2 ∨ op = 0b01#2 ∨ op = 0b10#2 ∨ op = 0b11#2 := by decide

/-- A word that passes the checks of R74 is the word of the command that its `op` selects. -/
theorem encode_selectCommand (h : PassesChecks w) : encode (selectCommand w) = w := by
  obtain ⟨hrsv, hdata, hprobe⟩ := h
  conv_rhs => rw [← packWord_fields hrsv]
  rcases op_cases (opField w) with hop | hop | hop | hop
  · rw [selectCommand_encode hop, encode, hop, hdata (by rw [hop]; decide)]
  · rw [selectCommand_readWord hop, encode, hop, hdata (by rw [hop]; decide)]
  · rw [selectCommand_writeWord hop, encode, hop]
  · have hzero : funcField w ++ offsetField w = 0#3 ++ 0#8 := funcOffsetBits_eq_append.symm.trans (hprobe hop)
    obtain ⟨hfunc, hoffset⟩ := Machine.append_eq_append_iff.1 hzero
    rw [selectCommand_checkVendor hop, encode, hop, hdata (by rw [hop]; decide), hfunc, hoffset]

/-- Settles O4: a word that decodes passes the checks, so it is the word of the command its `op` selects. -/
theorem commandsHaveOneWord : Obligations.CommandsHaveOneWord := by
  intro w i hw
  have hpass : PassesChecks w := exists_decode_eq_legal_iff.1 ⟨i, hw⟩
  obtain rfl : selectCommand w = i := Decoded.legal.inj ((decode_eq_legal hpass).symm.trans hw)
  exact (encode_selectCommand hpass).symm

end Sys2Proof
end

section
/-! What a command's transition does to the response latch and the ports, and the three invariants of every step: the
sequencer belongs to REQ (10_state.md rules R21, R22), the response latch is the last response (60_exceptions.md rules R141,
R143), and each data access follows its address write (20_memory.md rule R59). -/

namespace Sys2Proof.Machine

variable {s t : State} {i : Instr}

/-! ### Responses of a transition -/

/-- From `s` to `t` one OK response is given: it is in the latch, valid, and the last of the observation (R22, R55). -/
def AnswersOk (s t : State) : Prop :=
  t.respValid = true ∧ t.respStatus = statusOk ∧ t.responses = s.responses ++ [⟨statusOk, t.respValue⟩]

/-- From `s` to `t` the response latch and the responses stay as they are. -/
def KeepsResponse (s t : State) : Prop :=
  t.responses = s.responses ∧ t.respStatus = s.respStatus ∧ t.respValue = s.respValue ∧ t.respValid = s.respValid

/-- A command's transition ends at IDLE with an OK response, or goes on to a busy phase and answers nothing (R22). -/
theorem exec_answers (h : exec i s = .next t) :
    (t.phase = .idle ∧ AnswersOk s t) ∨ (t.phase ≠ .idle ∧ KeepsResponse s t) := by
  rcases exec_next h with ⟨-, rfl, -⟩ | ⟨-, rfl, -⟩ | ⟨-, rfl, -⟩ | ⟨-, rfl, -⟩ | ⟨-, v, rfl⟩ | ⟨-, v, rfl⟩ |
    ⟨-, b, sl, -, rfl⟩
  · exact .inl ⟨rfl, rfl, rfl, rfl⟩
  · exact .inr ⟨Phase.noConfusion, rfl, rfl, rfl, rfl⟩
  · exact .inr ⟨Phase.noConfusion, rfl, rfl, rfl, rfl⟩
  · exact .inr ⟨Phase.noConfusion, rfl, rfl, rfl, rfl⟩
  · exact .inl ⟨rfl, rfl, rfl, rfl⟩
  · exact .inl ⟨rfl, rfl, rfl, rfl⟩
  · exact .inr ⟨Phase.noConfusion, rfl, rfl, rfl, rfl⟩

/-! ### The sequencer belongs to REQ -/

/-- An idle sequencer is coherent. -/
theorem sequencerCoherent_of_idle (h : s.phase = .idle) : SequencerCoherent s :=
  fun howned => absurd h (s.owned_iff.1 howned)

/-- In a coherent busy state the command in REQ has a step now, A is its address, and the latch holds A once written. -/
theorem SequencerCoherent.of_decode (h : SequencerCoherent s) (howned : s.owned = true) (hdec : decode s.req = .legal i) :
    hasStep i s.phase = true ∧ s.a = commandAddress i ∧ (s.phase = .data1 ∨ s.phase = .data2 → s.addressLatch = s.a) := by
  obtain ⟨j, hj, hrest⟩ := h howned
  obtain rfl : j = i := Decoded.legal.inj (hj.symm.trans hdec)
  exact hrest

/-- CHECK_VENDOR's second address is its first: they differ in offset bit 1 alone (R104, R131). -/
theorem checkVendor_second_address (b : Bus) (sl : Slot) :
    configAddress b sl 0#3 0x02#8 = commandAddress (.checkVendor b sl) :=
  configAddress_inj.2 ⟨rfl, rfl, rfl, by decide⟩

/-- The transition of the command in REQ keeps the sequencer coherent. -/
theorem exec_coherent (h : SequencerCoherent s) (hdec : decode s.req = .legal i) (hexec : exec i s = .next t) :
    SequencerCoherent t := by
  rcases exec_next hexec with ⟨-, rfl, -⟩ | ⟨-, rfl, hstep⟩ | ⟨hphase, rfl, hstep⟩ | ⟨hphase, rfl, hstep⟩ | ⟨-, v, rfl⟩ |
    ⟨-, v, rfl⟩ | ⟨-, b, sl, rfl, rfl⟩
  · exact sequencerCoherent_of_idle rfl
  · exact fun _ => ⟨i, hdec, hstep, rfl, by simp⟩
  · obtain ⟨-, ha, -⟩ := h.of_decode (s.owned_iff.2 (by simp [hphase])) hdec
    exact fun _ => ⟨i, hdec, hstep, ha, fun _ => rfl⟩
  · obtain ⟨-, ha, -⟩ := h.of_decode (s.owned_iff.2 (by simp [hphase])) hdec
    exact fun _ => ⟨i, hdec, hstep, ha, fun _ => rfl⟩
  · exact sequencerCoherent_of_idle rfl
  · exact sequencerCoherent_of_idle rfl
  · exact fun _ => ⟨_, hdec, rfl, checkVendor_second_address b sl, by simp⟩

/-- An access that goes on while the block owns the pair is off the pair (R145). -/
theorem isPairPort_of_free {p : IoPort} (hfree : (s.owned && isPairPort p) = false) (howned : s.owned = true) :
    isPairPort p = false := by
  simpa [howned] using hfree

/-- A port off the pair is not the address port. -/
theorem ne_addrPort {p : IoPort} (h : isPairPort p = false) : p ≠ Config.addrPort := by
  rintro rfl
  exact absurd h (by decide)

/-- Settles O35: a command's transition keeps the sequencer coherent, an issue starts from IDLE, and no other move of a busy
block writes a register that coherence reads, as another master's write to 0xCF8 faults. -/
theorem sequencerStaysCoherent : Obligations.SequencerStaysCoherent := by
  intro s t h hstep
  obtain ⟨ts, hmove⟩ := step_next hstep
  cases hmove with
  | rest hidle heq => exact heq ▸ h
  | command hbusy i hdec hexec => exact exec_coherent (s := s.setAgenda ts) h hdec hexec
  | issue hidle r w i hdec hexec =>
    have hlatched : ((s.setAgenda ts).latchRequest r w).phase = .idle := s.not_owned_iff.1 hidle
    exact exec_coherent (sequencerCoherent_of_idle hlatched) hdec hexec
  | illegal hidle r w why hdec heq => exact heq ▸ sequencerCoherent_of_idle rfl
  | reading r g hturn heq => exact heq ▸ h
  | otherWrite m p v hturn hfree heq =>
    subst heq
    intro howned
    have hlatch : ((s.setAgenda ts).ioWrite32 (.other m) p v).addressLatch = s.addressLatch :=
      if_neg (ne_addrPort (isPairPort_of_free hfree howned))
    rw [hlatch]
    exact h howned
  | otherRead m p hturn hfree heq => exact heq ▸ h
  | reset hturn heq => exact heq ▸ sequencerCoherent_of_idle rfl

/-! ### The response latch is the last response -/

/-- A block at IDLE that has just given an allowed response has a sound latch. -/
theorem ResponseLatchSound.of_answer (h : ResponseLatchSound s) (hidle : t.phase = .idle)
    (hresponses : t.responses = s.responses ++ [⟨t.respStatus, t.respValue⟩])
    (hallowed : responseAllowed ⟨t.respStatus, t.respValue⟩ = true) (hissuer : t.issuer.isSome = true) :
    ResponseLatchSound t := by
  obtain ⟨-, -, hall, -⟩ := h
  refine ⟨fun howned => absurd hidle (t.owned_iff.1 howned), fun _ => ?_, fun r hr => ?_, fun _ => hissuer⟩
  · rw [hresponses, List.getLast?_concat]
  · rw [hresponses] at hr
    rcases List.mem_append.1 hr with hold | hnew
    · exact hall r hold
    · rwa [List.mem_singleton.1 hnew]

/-- A block whose last command is not answered yet, its issuer on record, has a sound latch when its responses are allowed. -/
theorem responseLatchSound_of_pending (hvalid : t.respValid = false) (hissuer : t.issuer.isSome = true)
    (hall : ∀ r ∈ t.responses, responseAllowed r = true) : ResponseLatchSound t :=
  ⟨fun _ => hvalid, by simp [hvalid], hall, fun _ => hissuer⟩

/-- A transition of a command not answered yet, its issuer on record, keeps the latch sound. -/
theorem exec_latchSound (h : ResponseLatchSound s) (hvalid : s.respValid = false) (hissuer : s.issuer.isSome = true)
    (hexec : exec i s = .next t) : ResponseLatchSound t := by
  have hissuer' : t.issuer.isSome = true := by rwa [(exec_keeps_request hexec).2]
  rcases exec_answers hexec with ⟨hidle, -, hstatus, hresponses⟩ | ⟨-, hresponses, -, -, hvalid'⟩
  · rw [← hstatus] at hresponses
    exact h.of_answer hidle hresponses (by rw [hstatus]; rfl) hissuer'
  · obtain ⟨-, -, hall, -⟩ := h
    exact responseLatchSound_of_pending (hvalid'.trans hvalid) hissuer' (by rwa [hresponses])

/-- Latching a request keeps the latch sound: nothing is valid, and the requester is on record (R78, R143). -/
theorem latchRequest_latchSound (h : ResponseLatchSound s) (r : Nat) (w : CmdWord) :
    ResponseLatchSound (s.latchRequest r w) := by
  obtain ⟨-, -, hall, -⟩ := h
  exact responseLatchSound_of_pending rfl rfl hall

/-- Settles O36: a command in progress or just issued is not answered yet, so its transition keeps the latch sound; the other
moves do not touch the response interface, or clear it. -/
theorem responseLatchStaysSound : Obligations.ResponseLatchStaysSound := by
  intro s t h hstep
  obtain ⟨ts, hmove⟩ := step_next hstep
  cases hmove with
  | rest hidle heq => exact heq ▸ h
  | command hbusy i hdec hexec =>
    obtain ⟨hvalid, -, -, hissuer⟩ := id h
    exact exec_latchSound (s := s.setAgenda ts) h (hvalid hbusy) (hissuer (.inl hbusy)) hexec
  | issue hidle r w i hdec hexec =>
    exact exec_latchSound (latchRequest_latchSound (s := s.setAgenda ts) h r w) rfl rfl hexec
  | illegal hidle r w why hdec heq =>
    exact heq ▸ (latchRequest_latchSound (s := s.setAgenda ts) h r w).of_answer rfl rfl rfl rfl
  | reading r g hturn heq => exact heq ▸ h
  | otherWrite m p v hturn hfree heq => exact heq ▸ h
  | otherRead m p hturn hfree heq => exact heq ▸ h
  | reset hturn heq =>
    subst heq
    obtain ⟨-, -, hall, -⟩ := h
    exact ⟨fun _ => rfl, by simp, hall, by simp [State.owned]⟩

/-! ### Address before data -/

/-- A history that obeys the discipline goes on to, with an event that obeys it. -/
theorem AddressBeforeData.append {h : List PortEvent} {e : PortEvent} (hh : AddressBeforeData h)
    (he : e.agent = .block → e.port = Config.dataPort →
      ∃ v, lastPairEvent h = some ⟨.block, .write, Config.addrPort, v⟩ ∧ isConfigAddress v = true) :
    AddressBeforeData (h ++ [e]) := by
  intro pre x post heq
  rcases List.eq_nil_or_concat post with rfl | ⟨post', y, rfl⟩
  · obtain ⟨rfl, rfl⟩ : h = pre ∧ e = x := by simpa using heq
    exact he
  · rw [List.concat_eq_append, ← List.cons_append, ← List.append_assoc] at heq
    exact hh pre x post' (List.append_inj_left' heq rfl)

/-- An access to the pair becomes the last one. -/
theorem lastPairEvent_append_of_pair (h : List PortEvent) {e : PortEvent} (he : isPairEvent e = true) :
    lastPairEvent (h ++ [e]) = some e := by
  simp [lastPairEvent, he]

/-- An access off the pair leaves the last one on the pair as it was. -/
theorem lastPairEvent_append_of_not_pair (h : List PortEvent) {e : PortEvent} (he : isPairEvent e = false) :
    lastPairEvent (h ++ [e]) = lastPairEvent h := by
  simp [lastPairEvent, he]

/-- The encoder's values have the shape of a ConfigAddress (R102, law 7). -/
theorem isConfigAddress_configAddress (b : Bus) (sl : Slot) (f : Func) (o : Offset) :
    isConfigAddress (configAddress b sl f o) = true := by
  obtain ⟨henable, hzero, hlow⟩ := exists_eq_configAddress_iff.1 ⟨b, sl, f, o, rfl⟩
  simp only [isConfigAddress, henable, hzero, hlow]
  rfl

/-- A command's address is a ConfigAddress (R104). -/
theorem isConfigAddress_commandAddress (i : Instr) : isConfigAddress (commandAddress i) = true := by
  cases i <;> exact isConfigAddress_configAddress ..

/-- An idle block with a disciplined history obeys the discipline. -/
theorem portDiscipline_of_idle (hidle : t.phase = .idle) (hhistory : AddressBeforeData t.history) : PortDiscipline t :=
  ⟨hhistory, fun howned => absurd hidle (t.owned_iff.1 howned), by simp [hidle]⟩

/-- In DATA1 and DATA2 a data access of the block goes on with the discipline: its address write was the last access. -/
theorem PortDiscipline.append_data (h : PortDiscipline s) (hphase : s.phase = .data1 ∨ s.phase = .data2)
    (kind : AccessKind) (v : Dword) : AddressBeforeData (s.history ++ [⟨.block, kind, Config.dataPort, v⟩]) := by
  obtain ⟨hhistory, haddress, hlast⟩ := h
  have howned : s.owned = true := s.owned_iff.2 (by rcases hphase with hp | hp <;> simp [hp])
  exact hhistory.append fun _ _ => ⟨s.a, hlast hphase, haddress howned⟩

/-- The write of A to the address port goes on with the discipline, and sets up a data access. -/
theorem PortDiscipline.writeAddress (h : PortDiscipline s) (howned : s.owned = true) (p : Phase) :
    PortDiscipline (s.writeAddress p) := by
  obtain ⟨hhistory, haddress, -⟩ := h
  have hports : Config.addrPort ≠ Config.dataPort := by decide
  exact ⟨hhistory.append fun _ hport => absurd hport hports, fun _ => haddress howned,
    fun _ => lastPairEvent_append_of_pair _ rfl⟩

/-- A command's transition keeps the discipline of the port pair. -/
theorem exec_discipline (h : PortDiscipline s) (hexec : exec i s = .next t) : PortDiscipline t := by
  obtain ⟨hhistory, -, -⟩ := id h
  rcases exec_next hexec with ⟨-, rfl, -⟩ | ⟨-, rfl, -⟩ | ⟨hphase, rfl, -⟩ | ⟨hphase, rfl, -⟩ | ⟨hphase, v, rfl⟩ |
    ⟨hphase, v, rfl⟩ | ⟨hphase, b, sl, -, rfl⟩
  · exact portDiscipline_of_idle rfl hhistory
  · exact ⟨hhistory, fun _ => isConfigAddress_commandAddress i, by simp⟩
  · exact h.writeAddress (s.owned_iff.2 (by simp [hphase])) _
  · exact h.writeAddress (s.owned_iff.2 (by simp [hphase])) _
  · exact portDiscipline_of_idle rfl (h.append_data hphase _ _)
  · exact portDiscipline_of_idle rfl (h.append_data (.inl hphase) _ _)
  · exact ⟨h.append_data (.inl hphase) _ _, fun _ => isConfigAddress_configAddress .., by simp⟩

/-- Another master's event keeps the discipline: it is no data access of the block, and off the pair while it is owned. -/
theorem PortDiscipline.other_event (h : PortDiscipline s) {m : Nat} {kind : AccessKind} {p : IoPort} {v : Dword}
    (hfree : (s.owned && isPairPort p) = false) (hphase : t.phase = s.phase) (ha : t.a = s.a)
    (hhistory : t.history = s.history ++ [⟨.other m, kind, p, v⟩]) : PortDiscipline t := by
  obtain ⟨hbefore, haddress, hlast⟩ := h
  rw [PortDiscipline, State.owned, hphase, ha, hhistory]
  refine ⟨hbefore.append fun hagent => PortAgent.noConfusion hagent, haddress, fun hdata => ?_⟩
  have howned : s.owned = true := s.owned_iff.2 (by rcases hdata with hp | hp <;> simp [hp])
  rw [lastPairEvent_append_of_not_pair _ (isPairPort_of_free hfree howned)]
  exact hlast hdata

/-- Settles O37: the block's own accesses come in a command's transition, the other masters' are events off the pair while it
is owned, and no other move adds an event. -/
theorem addressBeforeDataIsKept : Obligations.AddressBeforeDataIsKept := by
  intro s t h hstep
  obtain ⟨hhistory, -, -⟩ := id h
  obtain ⟨ts, hmove⟩ := step_next hstep
  cases hmove with
  | rest hidle heq => exact heq ▸ h
  | command hbusy i hdec hexec => exact exec_discipline (s := s.setAgenda ts) h hexec
  | issue hidle r w i hdec hexec => exact exec_discipline (s := (s.setAgenda ts).latchRequest r w) h hexec
  | illegal hidle r w why hdec heq => exact heq ▸ portDiscipline_of_idle rfl hhistory
  | reading r g hturn heq => exact heq ▸ h
  | otherWrite m p v hturn hfree heq => exact heq ▸ h.other_event hfree rfl rfl rfl
  | otherRead m p hturn hfree heq => exact heq ▸ h.other_event hfree rfl rfl rfl
  | reset hturn heq => exact heq ▸ portDiscipline_of_idle rfl hhistory

/-- Settles O34: the reset state is IDLE and nothing has happened. -/
theorem resetIsCoherent : Obligations.ResetIsCoherent := by
  refine ⟨sequencerCoherent_of_idle rfl, ⟨by decide, by decide, by decide, by decide⟩, portDiscipline_of_idle rfl ?_⟩
  intro pre e post h
  exact absurd h.symm (List.append_ne_nil_of_right_ne_nil _ (List.cons_ne_nil _ _))

end Sys2Proof.Machine
end

section
/-! What each step leaves unchanged: the port history but for one event (20_memory.md rule R55), the address latch but for
address writes (10_state.md rule R24), REQ and the response while a command is in progress (30_encoding.md rule R78), and the
registers of an idle block (10_state.md rule R21). -/

namespace Sys2Proof.Machine

variable {s t : State} {i : Instr}

/-! ### Events and the address latch -/

/-- From `s` to `t` no port is accessed and the address latch stays. -/
def NoAccess (s t : State) : Prop := t.history = s.history ∧ t.addressLatch = s.addressLatch

/-- From `s` to `t` the agent makes one access to the port, and the latch changes by a write to the address port alone, to
the value written (R24). -/
def OneAccess (agent : PortAgent) (port : IoPort) (s t : State) : Prop :=
  ∃ kind v, t.history = s.history ++ [⟨agent, kind, port, v⟩] ∧
    (t.addressLatch = s.addressLatch ∨ (kind = .write ∧ port = Config.addrPort ∧ t.addressLatch = v))

/-- A write of any agent is one access. -/
theorem ioWrite32_oneAccess (agent : PortAgent) (port : IoPort) (v : Dword) :
    OneAccess agent port s (s.ioWrite32 agent port v) := by
  refine ⟨.write, v, rfl, ?_⟩
  by_cases hport : port = Config.addrPort
  · exact .inr ⟨rfl, hport, if_pos hport⟩
  · exact .inl (if_neg hport)

/-- A command's transition accesses no port, or, while the block owns the pair, one port of the pair (R50, R56). -/
theorem exec_access (h : exec i s = .next t) :
    NoAccess s t ∨ (s.phase ≠ .idle ∧ ∃ port, isPairPort port = true ∧ OneAccess .block port s t) := by
  rcases exec_next h with ⟨-, rfl, -⟩ | ⟨-, rfl, -⟩ | ⟨hphase, rfl, -⟩ | ⟨hphase, rfl, -⟩ | ⟨hphase, v, rfl⟩ |
    ⟨hphase, v, rfl⟩ | ⟨hphase, b, sl, -, rfl⟩
  · exact .inl ⟨rfl, rfl⟩
  · exact .inl ⟨rfl, rfl⟩
  · exact .inr ⟨by simp [hphase], _, by decide, ioWrite32_oneAccess _ _ _⟩
  · exact .inr ⟨by simp [hphase], _, by decide, ioWrite32_oneAccess _ _ _⟩
  · exact .inr ⟨by rcases hphase with hp | hp <;> simp [hp], Config.dataPort, by decide, .read, _, rfl, .inl rfl⟩
  · exact .inr ⟨by simp [hphase], _, by decide, ioWrite32_oneAccess _ _ _⟩
  · exact .inr ⟨by simp [hphase], Config.dataPort, by decide, .read, _, rfl, .inl rfl⟩

/-- A step accesses no port, or one port once: the block on the pair while it owns it, or another master; or it is reset. -/
theorem step_access (h : step s = .next t) :
    NoAccess s t ∨ (s.phase ≠ .idle ∧ ∃ port, isPairPort port = true ∧ OneAccess .block port s t) ∨
      (∃ m port, OneAccess (.other m) port s t) ∨ (t.history = s.history ∧ ∃ rest, s.agenda = .reset :: rest) := by
  obtain ⟨ts, hmove⟩ := step_next h
  cases hmove with
  | rest hidle heq => exact heq ▸ .inl ⟨rfl, rfl⟩
  | command hbusy i hdec hexec => exact (exec_access (s := s.setAgenda ts) hexec).imp_right .inl
  | issue hidle r w i hdec hexec => exact (exec_access (s := (s.setAgenda ts).latchRequest r w) hexec).imp_right .inl
  | illegal hidle r w why hdec heq => exact heq ▸ .inl ⟨rfl, rfl⟩
  | reading r g hturn heq => exact heq ▸ .inl ⟨rfl, rfl⟩
  | otherWrite m p v hturn hfree heq =>
    exact heq ▸ .inr (.inr (.inl ⟨m, p, ioWrite32_oneAccess (s := s.setAgenda ts) _ p v⟩))
  | otherRead m p hturn hfree heq => exact heq ▸ .inr (.inr (.inl ⟨m, p, .read, _, rfl, .inl rfl⟩))
  | reset hturn heq => exact heq ▸ .inr (.inr (.inr ⟨rfl, ts, hturn⟩))

/-- Settles O38: `step_access`, for the history. -/
theorem oneEventPerStep : Obligations.OneEventPerStep := by
  intro s t h
  rcases step_access h with ⟨hsame, -⟩ | ⟨hbusy, port, hpair, kind, v, hevent, -⟩ | ⟨m, port, kind, v, hevent, -⟩ |
    ⟨hsame, -⟩
  · exact .inl hsame
  · exact .inr ⟨_, hevent, fun _ => ⟨isPairPort_iff.1 hpair, hbusy⟩⟩
  · exact .inr ⟨_, hevent, fun hagent => PortAgent.noConfusion hagent⟩
  · exact .inl hsame

/-- One access changes the latch only if it is the write of the latch's new value to 0xCF8. -/
theorem OneAccess.latch {agent : PortAgent} {port : IoPort} (h : OneAccess agent port s t) :
    t.addressLatch = s.addressLatch ∨ t.history = s.history ++ [⟨agent, .write, 0xCF8#16, t.addressLatch⟩] := by
  obtain ⟨kind, v, hevent, hsame | ⟨rfl, rfl, rfl⟩⟩ := h
  · exact .inl hsame
  · exact .inr hevent

/-- Settles O39: `step_access`, for the latch. -/
theorem latchChangesOnlyByAddressWrites : Obligations.LatchChangesOnlyByAddressWrites := by
  intro s t h
  rcases step_access h with ⟨-, hsame⟩ | ⟨-, port, -, haccess⟩ | ⟨m, port, haccess⟩ | ⟨-, hreset⟩
  · exact .inl hsame
  · exact haccess.latch.imp_right fun hwrite => .inl ⟨_, hwrite⟩
  · exact haccess.latch.imp_right fun hwrite => .inl ⟨_, hwrite⟩
  · exact .inr (.inr hreset)

/-! ### A command in progress -/

/-- A busy block's step without a reset is a transition of the command in REQ, or leaves the phase and every register of the
block as they are. -/
theorem step_busy_cases (h : step s = .next t) (hbusy : s.phase ≠ .idle) (hreset : ∀ rest, s.agenda ≠ .reset :: rest) :
    (∃ ts i, decode s.req = .legal i ∧ exec i (s.setAgenda ts) = .next t) ∨
      (t.phase = s.phase ∧ t.req = s.req ∧ t.issuer = s.issuer ∧ KeepsResponse s t) := by
  obtain ⟨ts, hmove⟩ := step_next h
  cases hmove with
  | rest hidle heq => exact absurd (s.not_owned_iff.1 hidle) hbusy
  | command _ i hdec hexec => exact .inl ⟨ts, i, hdec, hexec⟩
  | issue hidle => exact absurd (s.not_owned_iff.1 hidle) hbusy
  | illegal hidle => exact absurd (s.not_owned_iff.1 hidle) hbusy
  | reading r g hturn heq => exact heq ▸ .inr ⟨rfl, rfl, rfl, rfl, rfl, rfl, rfl⟩
  | otherWrite m p v hturn hfree heq => exact heq ▸ .inr ⟨rfl, rfl, rfl, rfl, rfl, rfl, rfl⟩
  | otherRead m p hturn hfree heq => exact heq ▸ .inr ⟨rfl, rfl, rfl, rfl, rfl, rfl, rfl⟩
  | reset hturn heq => exact absurd hturn (hreset ts)

/-- Settles O40: a command's transition keeps its request, and the other agents' moves do too. -/
theorem requestIsHeldToTheEnd : Obligations.RequestIsHeldToTheEnd := by
  intro s t h hbusy hreset
  rcases step_busy_cases h hbusy hreset with ⟨ts, i, -, hexec⟩ | ⟨-, hreq, hissuer, -⟩
  · exact exec_keeps_request (s := s.setAgenda ts) hexec
  · exact ⟨hreq, hissuer⟩

/-- Settles O41: a transition that reaches IDLE answers, any other move of a busy block keeps the response. -/
theorem onlyResetCancels : Obligations.OnlyResetCancels := by
  intro s t h hbusy hreset
  rcases step_busy_cases h hbusy hreset with ⟨ts, i, -, hexec⟩ | ⟨hphase, -, -, hkeeps⟩
  · rcases exec_answers hexec with ⟨hidle, hvalid, hstatus, hresponses⟩ | ⟨hgoes, hkeeps⟩
    · exact ⟨fun _ => ⟨t.respValue, hresponses, hstatus, rfl, hvalid⟩, fun hgoes => absurd hidle hgoes⟩
    · exact ⟨fun hidle => absurd hidle hgoes, fun _ => hkeeps⟩
  · exact ⟨fun hidle => absurd (hphase.symm.trans hidle) hbusy, fun _ => hkeeps⟩

/-! ### An idle block -/

/-- At IDLE a step whose turn is no issue, call or reset is the sequencer's rest, a read of the response interface, or
another master's access. -/
theorem step_idle_cases (h : step s = .next t) (hidle : s.phase = .idle)
    (hturns : ∀ u rest, s.agenda = u :: rest → u ≠ .reset ∧ (∀ r w, u ≠ .issue r w) ∧ ∀ r c, u ≠ .call r c) :
    ∃ ts, t = s.setAgenda ts ∨ (∃ r g, t = (s.setAgenda ts).recordReading r g) ∨
      (∃ m p v, t = (s.setAgenda ts).ioWrite32 (.other m) p v) ∨
      ∃ m p v, t = (s.setAgenda ts).recordRead (.other m) p v := by
  cases hagenda : s.agenda with
  | nil =>
    rw [step_no_turn hagenda, sequencerStep_idle hidle] at h
    exact ⟨s.agenda, .inl (Host.Outcome.next.inj h).symm⟩
  | cons u rest =>
    obtain ⟨hreset, hissue, hcall⟩ := hturns u rest hagenda
    rw [step_turn hagenda] at h
    refine ⟨rest, ?_⟩
    cases u with
    | sequencer =>
      have hafter : (s.setAgenda rest).phase = .idle := hidle
      rw [agentStep, sequencerStep_idle hafter] at h
      exact .inl (Host.Outcome.next.inj h).symm
    | issue r w => exact absurd rfl (hissue r w)
    | call r c => exact absurd rfl (hcall r c)
    | readResponse r g => exact .inr (.inl ⟨r, g, (readResponse_next h).1⟩)
    | portWrite m p v => exact .inr (.inr (.inl ⟨m, p, v, (otherWrite_next h).2⟩))
    | portRead m p => exact .inr (.inr (.inr ⟨m, p, _, (otherRead_next h).2⟩))
    | reset => exact absurd rfl hreset

/-- Settles O42: none of the moves of `step_idle_cases` writes a register of the block. -/
theorem idleBlockKeepsItsRegisters : Obligations.IdleBlockKeepsItsRegisters := by
  intro s t h hidle hturns
  obtain ⟨ts, rfl | ⟨r, g, rfl⟩ | ⟨m, p, v, rfl⟩ | ⟨m, p, v, rfl⟩⟩ := step_idle_cases h hidle hturns <;>
    exact ⟨hidle, rfl, rfl, rfl, rfl, rfl, rfl, rfl, rfl⟩

end Sys2Proof.Machine
end

section
/-! The lanes of a dword and the dword of an address (20_memory.md rules R51, R52, R54; 10_state.md rule R25), and what the
offset's low bits mean for the commands (41_transport.md rule R117). -/

namespace Sys2Proof.Machine

/-! ### Lanes -/

variable (v : Dword) (k : Offset)

/-- The byte lane is the eight bits from the shift of R52 up. -/
theorem byteLane_eq_shift : byteLane v k = (v >>> (8 * (k.toNat % 4))).setWidth 8 := by
  have hmod : (k &&& 3#8).toNat = k.toNat % 4 := by
    rw [BitVec.toNat_and]
    exact Nat.and_two_pow_sub_one_eq_mod k.toNat 2
  rw [byteLane, hmod, BitVec.setWidth_ushiftRight_eq_extractLsb]

/-- With bit 0 set, offset bit 1 chooses between the bytes 3 and 1. -/
theorem byteLane_or_one :
    byteLane v (k ||| 1#8) = if k.extractLsb' 1 1 = 1#1 then v.extractLsb' 24 8 else v.extractLsb' 8 8 := by
  have hlane : (k ||| 1#8) &&& 3#8 = (k &&& 2#8) ||| 1#8 := by
    apply BitVec.eq_of_getLsbD_eq
    intro j hj
    interval_cases j <;> simp
  rw [byteLane, hlane, offset_and_two]
  split_ifs <;> rfl

/-- With bit 0 cleared, offset bit 1 chooses between the bytes 2 and 0. -/
theorem byteLane_and_fe :
    byteLane v (k &&& 0xFE#8) = if k.extractLsb' 1 1 = 1#1 then v.extractLsb' 16 8 else v.extractLsb' 0 8 := by
  have hlane : k &&& 0xFE#8 &&& 3#8 = k &&& 2#8 := by rw [BitVec.and_assoc]; rfl
  rw [byteLane, hlane, offset_and_two]
  split_ifs <;> rfl

/-- Settles O9: offset bit 1 chooses the half, and with it both of the half's bytes. -/
theorem byteLanesAgreeWithWords : Obligations.ByteLanesAgreeWithWords := by
  refine fun v k => ⟨byteLane_eq_shift v k, ?_⟩
  rw [halfSelect_eq_ite, byteLane_or_one, byteLane_and_fe]
  split_ifs
  · rw [BitVec.extractLsb'_append_extractLsb'_eq_extractLsb' (by rfl)]
  · rw [BitVec.extractLsb'_append_extractLsb'_eq_extractLsb' (by rfl)]

/-! ### The dword of an address -/

/-- A latch that holds a ConfigAddress selects the dword of its coordinates (R25). -/
theorem selectedDword_configAddress (b : Bus) (sl : Slot) (f : Func) (o : Offset) :
    selectedDword (configAddress b sl f o) = ⟨b, sl, f, o.extractLsb' 2 6⟩ := by
  obtain ⟨-, -, hbus, hslot, hfunc, hindex, -⟩ := eq_configAddress_iff.1 (rfl : configAddress b sl f o = _)
  rw [selectedDword, hbus, hslot, hfunc, hindex]

/-- Settles O10: the window is the dword that the latch selects. -/
theorem addressSelectsItsDword : Obligations.AddressSelectsItsDword := by
  intro s b sl f o hlatch
  rw [State.window, hlatch, selectedDword_configAddress]

/-! ### The offset's low bits -/

/-- The offset's bits 7:1 are its dword index over its bit 1. -/
theorem offset_bits_append (o : Offset) : o.extractLsb' 1 7 = o.extractLsb' 2 6 ++ o.extractLsb' 1 1 := by
  rw [BitVec.extractLsb'_append_extractLsb'_eq_extractLsb' (by rfl)]

/-- Settles O18: the offset stands in a command's meaning only by its ConfigAddress, which has the bits 7:2, and by the half
selection, which has bit 1. -/
theorem lowOffsetBitsHaveNoEffect : Obligations.LowOffsetBitsHaveNoEffect := by
  intro b sl f o o' d s
  refine ⟨fun h => ?_, fun h => ?_⟩
  · have haddress : configAddress b sl f o = configAddress b sl f o' := configAddress_inj.2 ⟨rfl, rfl, rfl, h⟩
    simp only [exec, execEncode, execWriteWord, haddress, and_self]
  · rw [offset_bits_append, offset_bits_append] at h
    obtain ⟨hindex, hbit⟩ := append_eq_append_iff.1 h
    have haddress : configAddress b sl f o = configAddress b sl f o' := configAddress_inj.2 ⟨rfl, rfl, rfl, hindex⟩
    have hhalf : ∀ v, halfSelect v o = halfSelect v o' := fun v => by rw [halfSelect_eq_ite, halfSelect_eq_ite, hbit]
    simp only [exec, execReadWord, haddress, hhalf]

end Sys2Proof.Machine
end

section
/-! The commands' transitions, phase by phase: READ_WORD and WRITE_WORD (41_transport.md rules R110, R115 to R117) and
CHECK_VENDOR (42_probe.md rules R131 to R133). -/

namespace Sys2Proof.Machine

variable {s : State} {b : Bus} {sl : Slot} {f : Func} {o : Offset} {d : Word}

/-! ### One equation per phase -/

/-- A command with port accesses forms its address in its issue action (R110, R115, R131). -/
theorem exec_idle_arms {i : Instr} (hstep : hasStep i .addr1 = true) (hphase : s.phase = .idle) :
    exec i s = .next (s.armAddress (commandAddress i) .addr1) := by
  cases i with
  | encode => exact absurd hstep Bool.false_ne_true
  | readWord => rw [exec, execReadWord, hphase, commandAddress]
  | writeWord => rw [exec, execWriteWord, hphase, commandAddress]
  | checkVendor => rw [exec, execCheckVendor, hphase, commandAddress]

/-- A command with port accesses writes its address in ADDR1 (R110, R115, R131). -/
theorem exec_addr1 {i : Instr} (hstep : hasStep i .addr1 = true) (hphase : s.phase = .addr1) :
    exec i s = .next (s.writeAddress .data1) := by
  cases i with
  | encode => exact absurd hstep Bool.false_ne_true
  | readWord => rw [exec, execReadWord, hphase]
  | writeWord => rw [exec, execWriteWord, hphase]
  | checkVendor => rw [exec, execCheckVendor, hphase]

/-- WRITE_WORD's DATA1 step writes the zero-extended data to the data port and answers 0 (R115). -/
theorem exec_writeWord_data1 (hphase : s.phase = .data1) :
    exec (.writeWord b sl f o d) s = .next ((s.ioWrite32 .block Config.dataPort (widen d)).complete 0#32) := by
  rw [exec, execWriteWord, hphase]

/-- CHECK_VENDOR's DATA1 step reads the data port into D and decides (R131). -/
theorem exec_checkVendor_data1 (hphase : s.phase = .data1) :
    exec (.checkVendor b sl) s = .next (decidePresence b sl s.readData) := by
  rw [exec, execCheckVendor, hphase]

/-- CHECK_VENDOR's ADDR2 step writes its address again (R131). -/
theorem exec_checkVendor_addr2 (hphase : s.phase = .addr2) :
    exec (.checkVendor b sl) s = .next (s.writeAddress .data2) := by
  rw [exec, execCheckVendor, hphase]

/-- CHECK_VENDOR's DATA2 step reads the data port into D and answers with the upper half of D (R131). -/
theorem exec_checkVendor_data2 (hphase : s.phase = .data2) :
    exec (.checkVendor b sl) s = .next (s.readData.complete (0#16 ++ s.readData.d.extractLsb' 16 16)) := by
  rw [exec, execCheckVendor, hphase, widen_eq_append, halfSelect_eq_ite]
  rfl

/-! ### CHECK_VENDOR's decision -/

/-- The vendor ID is the low half of D; the sentinel, and it alone, means absent (R130, R133). -/
theorem isAbsent_vendor_iff (v : Dword) : isAbsent (halfSelect v 0x00#8) = true ↔ v.extractLsb' 0 16 = 0xFFFF#16 := by
  rw [isAbsent, beq_iff_eq, halfSelect_eq_ite]
  rfl

/-- The sentinel read ends CHECK_VENDOR with 0 (R131). -/
theorem decidePresence_absent (h : s.d.extractLsb' 0 16 = 0xFFFF#16) : decidePresence b sl s = s.complete 0#32 := by
  rw [decidePresence, if_pos ((isAbsent_vendor_iff s.d).2 h), Config.probeAbsentResult]

/-- Any other value sets up the second address (R131). -/
theorem decidePresence_present (h : s.d.extractLsb' 0 16 ≠ 0xFFFF#16) :
    decidePresence b sl s = s.armAddress (configAddress b sl 0#3 0x02#8) .addr2 := by
  rw [decidePresence, if_neg ((isAbsent_vendor_iff s.d).not.2 h)]

/-! ### The transitions with all that they change -/

/-- Settles O11: the answer at IDLE, its fields written out. -/
theorem encodeAnswersAtOnce : Obligations.EncodeAnswersAtOnce :=
  fun b sl f o _ hidle => exec_encode_idle hidle b sl f o

/-- Settles O12: the equations of READ_WORD's phases, the half selected by offset bit 1. -/
theorem readWordTransitions : Obligations.ReadWordTransitions := by
  intro b sl f o s
  refine ⟨fun hphase => exec_idle_arms rfl hphase, fun hphase => exec_addr1 rfl hphase, fun hphase => ⟨_, rfl, ?_⟩⟩
  rw [exec_readWord_data1 hphase, halfSelect_eq_ite]
  rfl

/-- Settles O13: the equations of WRITE_WORD's phases, the data widened by sixteen zeros. -/
theorem writeWordTransitions : Obligations.WriteWordTransitions := by
  intro b sl f o d s
  refine ⟨fun hphase => exec_idle_arms rfl hphase, fun hphase => exec_addr1 rfl hphase, fun hphase => ?_⟩
  rw [exec_writeWord_data1 hphase, widen_eq_append]
  rfl

/-- Settles O14: the equations of CHECK_VENDOR's phases, the decision by the low half of the value read. -/
theorem checkVendorTransitions : Obligations.CheckVendorTransitions := by
  intro b sl s
  refine ⟨fun hphase => exec_idle_arms rfl hphase, fun hphase => exec_addr1 rfl hphase, fun hphase => ⟨_, rfl, ?_⟩,
    fun hphase => exec_checkVendor_addr2 hphase, fun hphase => ⟨_, rfl, exec_checkVendor_data2 hphase⟩⟩
  rw [exec_checkVendor_data1 hphase]
  split_ifs with hvendor
  · exact congrArg _ (decidePresence_absent hvendor)
  · exact congrArg _ (decidePresence_present hvendor)

/-! ### What an answer 0 means -/

/-- A word under sixteen zeros is 0 exactly when the word is. -/
theorem zero_append_eq_zero_iff (w : Word) : 0#16 ++ w = 0#32 ↔ w = 0#16 :=
  (append_eq_append_iff (x := 0#16) (x' := 0#16) (y := w) (y' := 0#16)).trans (and_iff_right rfl)

/-- Settles O16: the decision of DATA1 is by the low half of D, and DATA2 answers with the upper half of D. -/
theorem zeroAnswerMeansAbsentOrZeroId : Obligations.ZeroAnswerMeansAbsentOrZeroId := by
  intro b sl s
  refine ⟨fun hphase => ⟨_, exec_checkVendor_data1 hphase, ?_⟩,
    fun hphase => ⟨_, exec_checkVendor_data2 hphase, rfl, zero_append_eq_zero_iff _⟩⟩
  by_cases hvendor : s.readData.d.extractLsb' 0 16 = 0xFFFF#16
  · rw [decidePresence_absent hvendor]
    exact ⟨iff_of_true rfl hvendor, fun _ => rfl⟩
  · rw [decidePresence_present hvendor]
    exact ⟨iff_of_false Phase.noConfusion hvendor, fun hidle => Phase.noConfusion hidle⟩

/-! ### WRITE_WORD at an odd word -/

/-- The even word of a widened word is the word. -/
theorem halfSelect_widen_even (h : o.extractLsb' 1 1 = 0#1) : halfSelect (widen d) o = d := by
  rw [halfSelect_eq_ite, h, if_neg (by decide), widen_eq_append, BitVec.extractLsb'_append_eq_right]

/-- The odd word of a widened word is 0. -/
theorem halfSelect_widen_odd (h : o.extractLsb' 1 1 = 1#1) : halfSelect (widen d) o = 0#16 := by
  rw [halfSelect_eq_ite, h, if_pos rfl, widen_eq_append, BitVec.extractLsb'_append_eq_left]

/-- The other word of the dword is at the offset with bit 1 flipped. -/
theorem extractLsb'_other_word (o : Offset) : (o ^^^ 2#8).extractLsb' 1 1 = o.extractLsb' 1 1 ^^^ 1#1 :=
  BitVec.extractLsb'_xor

/-- Settles O17: the value written is the widened data, whose words are the data and 0 whatever the offset. -/
theorem writeWordIgnoresTheOddWord : Obligations.WriteWordIgnoresTheOddWord := by
  intro b sl f o d s hphase
  refine ⟨_, widen d, exec_writeWord_data1 hphase, rfl, rfl, fun hlatch => ?_, fun heven => ?_, fun hodd => ?_⟩
  · exact (congrArg selectedDword hlatch).trans (selectedDword_configAddress b sl f o)
  · have hother : (o ^^^ 2#8).extractLsb' 1 1 = 1#1 := by rw [extractLsb'_other_word, heven]; rfl
    exact ⟨halfSelect_widen_even heven, halfSelect_widen_odd hother⟩
  · have hother : (o ^^^ 2#8).extractLsb' 1 1 = 0#1 := by rw [extractLsb'_other_word, hodd]; rfl
    exact ⟨halfSelect_widen_even hother, halfSelect_widen_odd hodd⟩

end Sys2Proof.Machine
end

section
/-! A step by its turn: the block's own steps and the holds of requests (30_encoding.md rule R78), the other agents' turns
(20_memory.md rule R55, 60_exceptions.md rule R143), and the faults that a sound state can end in. -/

namespace Sys2Proof.Machine

variable {s t : State} {i : Instr} {r : Nat} {w : CmdWord} {ts us : List Turn}

/-! ### The block's own steps -/

/-- A busy block's sequencer takes the transition of the command in REQ (R21). -/
theorem sequencerStep_busy (hbusy : s.phase ≠ .idle) (hdec : decode s.req = .legal i) : sequencerStep s = exec i s := by
  rw [sequencerStep, if_pos (s.owned_iff.2 hbusy), hdec]

/-- With the turns `ts` to come a busy block takes its sequencer's step, and `us` are then to come (R78, log entry 1). -/
def BlockMoves (ts us : List Turn) : Prop :=
  ∀ s : State, s.agenda = ts → s.phase ≠ .idle → step s = sequencerStep (s.setAgenda us)

/-- A turn of the sequencer is the block's. -/
theorem blockMoves_sequencer : BlockMoves (.sequencer :: ts) ts :=
  fun _ hturn _ => step_turn hturn

/-- Where no turn is planned the block moves (R171). -/
theorem blockMoves_nil : BlockMoves [] [] := by
  intro s hturn _
  rw [step_no_turn hturn, ← hturn, State.setAgenda_self]

/-- A request holds while a command is in progress: the block moves (R78). -/
theorem requestTurn_busy (hbusy : s.phase ≠ .idle) : requestTurn r w ts s = sequencerStep s := by
  rw [requestTurn, if_pos (s.owned_iff.2 hbusy)]

/-- An issue holds, and stays to come (R78). -/
theorem blockMoves_issue : BlockMoves (.issue r w :: ts) (.issue r w :: ts) := by
  intro s hturn hbusy
  rw [step_turn hturn, agentStep, requestTurn_busy hbusy, ← hturn, State.setAgenda_self]

/-- A call in range holds as an issue does, and stays to come (R78, R144). -/
theorem blockMoves_call {c : WideCall} (hrange : ∀ p ∈ c.arguments, p.2 < p.1.bound) :
    BlockMoves (.call r c :: ts) (.call r c :: ts) := by
  intro s hturn hbusy
  rw [step_call_inRange hturn hrange, requestTurn_busy hbusy, ← hturn, State.setAgenda_self]

/-- Where the block moves, its step is the transition of the command in REQ. -/
theorem BlockMoves.step_eq_exec (h : BlockMoves ts us) (hturn : s.agenda = ts) (hbusy : s.phase ≠ .idle)
    (hdec : decode s.req = .legal i) : step s = exec i (s.setAgenda us) := by
  have hafter : (s.setAgenda us).phase ≠ .idle := hbusy
  rw [h s hturn hbusy, sequencerStep_busy hafter hdec]

/-- A command's transition leaves the turns to come as they are. -/
theorem exec_keeps_agenda (h : exec i s = .next t) : t.agenda = s.agenda := by
  rcases exec_next h with ⟨-, rfl, -⟩ | ⟨-, rfl, -⟩ | ⟨-, rfl, -⟩ | ⟨-, rfl, -⟩ | ⟨-, v, rfl⟩ | ⟨-, v, rfl⟩ |
    ⟨-, b, sl, -, rfl⟩ <;> rfl

/-- The block's own step keeps the request, its issuer and the turns to come (R78). -/
theorem sequencerStep_keeps (h : sequencerStep s = .next t) :
    t.req = s.req ∧ t.issuer = s.issuer ∧ t.agenda = s.agenda := by
  rcases sequencerStep_next h with ⟨-, rfl⟩ | ⟨-, i, -, hexec⟩
  · exact ⟨rfl, rfl, rfl⟩
  · exact ⟨(exec_keeps_request hexec).1, (exec_keeps_request hexec).2, exec_keeps_agenda hexec⟩

/-- A held turn: the step is the one that a sequencer's turn before it would give, the request is kept, and the turn is
still to come. -/
theorem BlockMoves.holds (h : BlockMoves ts ts) (hturn : s.agenda = ts) (hbusy : s.phase ≠ .idle) :
    step s = step { s with agenda := .sequencer :: ts } ∧
      ∀ t, step s = .next t → t.req = s.req ∧ t.issuer = s.issuer ∧ t.agenda = s.agenda := by
  have hsequencer : step { s with agenda := .sequencer :: ts } = sequencerStep (s.setAgenda ts) :=
    blockMoves_sequencer _ rfl hbusy
  refine ⟨(h s hturn hbusy).trans hsequencer.symm, fun t hstep => ?_⟩
  rw [h s hturn hbusy, ← hturn, State.setAgenda_self] at hstep
  exact sequencerStep_keeps hstep

/-- Settles O25: an issue is a held turn. -/
theorem issueHoldsWhileBusy : Obligations.IssueHoldsWhileBusy := by
  intro s t r w rest hbusy hturn
  obtain ⟨hsame, hkeeps⟩ := blockMoves_issue.holds hturn hbusy
  exact ⟨hsame, hkeeps t⟩

/-- Settles O24: the issue at IDLE, the block's two ways to move, and its rest at IDLE. -/
theorem stepRunsTheDecodedCommand : Obligations.StepRunsTheDecodedCommand := by
  intro s r w i rest
  refine ⟨fun hidle hturn hdec => step_issue_legal hidle hturn hdec,
    fun hbusy hturn hdec => blockMoves_sequencer.step_eq_exec hturn hbusy hdec, fun hbusy hturn hdec => ?_,
    fun hidle hturn => ?_, fun hidle hturn => ?_⟩
  · rw [step_no_turn hturn, sequencerStep_busy hbusy hdec]
  · exact (step_turn hturn).trans (sequencerStep_idle hidle)
  · rw [step_no_turn hturn, sequencerStep_idle hidle]

/-- An issue step leaves the turns to come as they are. -/
theorem issueStep_keeps_agenda (h : issueStep r w s = .next t) : t.agenda = s.agenda := by
  rcases issueStep_next h with ⟨i, -, hexec⟩ | ⟨-, rfl⟩
  · exact exec_keeps_agenda (s := s.latchRequest r w) hexec
  · rfl

/-- Settles O33: the reset state is IDLE, and an issue at IDLE goes on. -/
theorem resetStateAcceptsACommand : Obligations.ResetStateAcceptsACommand := by
  refine ⟨rfl, rfl, rfl, rfl, rfl, fun r w => ?_⟩
  have hissue : step { State.reset with agenda := [.issue r w] } = issueStep r w State.reset := step_issue_idle rfl rfl
  obtain ⟨t, ht, hreq, -⟩ := issueStep_records_request (s := State.reset) rfl r w
  exact ⟨t, hissue.trans ht, hreq, issueStep_keeps_agenda ht⟩

/-! ### Reads of the response interface -/

/-- RESP_VALID is read at any time, by any requester (R22, log entry 6). -/
theorem readResponse_valid (r : Nat) : readResponse r .valid s = .next (s.recordReading r .valid) := by
  rw [readResponse, if_pos rfl]

/-- The response is for the issuer while it is valid (R143). -/
theorem State.responseIsFor_of_issuer (hvalid : s.respValid = true) (hissuer : s.issuer = some r) :
    s.responseIsFor r = true := by
  simp [State.responseIsFor, hvalid, hissuer]

/-- The issuer reads a valid response, or its reserved status is a fault (R141, R143). -/
theorem readResponse_ready {g : RespReg} (hreg : g ≠ .valid) (hfor : s.responseIsFor r = true) :
    readResponse r g s =
      if statusIsReserved s.respStatus then .fault (.reservedStatus s.respStatus) else .next (s.recordReading r g) := by
  rw [readResponse, if_neg hreg, hfor, if_neg Bool.noConfusion]

/-- Statuses 0 and 1 are not reserved (R141). -/
theorem statusIsReserved_of_defined {c : BitVec 2} (h : c = 0#2 ∨ c = 1#2) : statusIsReserved c = false := by
  rcases h with rfl | rfl <;> rfl

/-- Statuses 2 and 3 are reserved (R141). -/
theorem statusIsReserved_of_reserved {c : BitVec 2} (h : c = 2#2 ∨ c = 3#2) : statusIsReserved c = true := by
  rcases h with rfl | rfl <;> rfl

/-- A turn that reads a valid response of a defined status records what the register shows (R22). -/
theorem step_readResponse {g : RespReg} (hturn : s.agenda = .readResponse r g :: ts) (hreg : g ≠ .valid)
    (hvalid : s.respValid = true) (hissuer : s.issuer = some r) (hstatus : s.respStatus = 0#2 ∨ s.respStatus = 1#2) :
    step s = .next ((s.setAgenda ts).recordReading r g) := by
  have hfor : (s.setAgenda ts).responseIsFor r = true := State.responseIsFor_of_issuer hvalid hissuer
  rw [step_turn hturn, agentStep, readResponse_ready hreg hfor, State.setAgenda_respStatus,
    statusIsReserved_of_defined hstatus, if_neg Bool.false_ne_true]

/-- RESP_STATUS is shown under thirty zeros, RESP_VALID as 0 or 1 (R22). -/
theorem respRegister_status_valid :
    s.respRegister .status = 0#30 ++ s.respStatus ∧ s.respRegister .valid = if s.respValid then 1#32 else 0#32 := by
  refine ⟨BitVec.setWidth_eq_append (by decide), ?_⟩
  rw [State.respRegister]
  cases s.respValid <;> rfl

/-- Settles O28: each read by its register, and the reserved statuses. -/
theorem responseReads : Obligations.ResponseReads := by
  intro s r rest
  obtain ⟨hshowStatus, hshowValid⟩ := respRegister_status_valid (s := s)
  refine ⟨fun hturn hvalid hissuer hstatus => step_readResponse hturn RespReg.noConfusion hvalid hissuer hstatus,
    fun hturn hvalid hissuer hstatus => ?_, fun hturn => ?_, fun g hturn hreg hvalid hissuer hstatus => ?_⟩
  · rw [← hshowStatus]
    exact step_readResponse hturn RespReg.noConfusion hvalid hissuer hstatus
  · rw [← hshowValid, step_turn hturn, agentStep, readResponse_valid]
    rfl
  · have hfor : (s.setAgenda rest).responseIsFor r = true := State.responseIsFor_of_issuer hvalid hissuer
    rw [step_turn hturn, agentStep, readResponse_ready hreg hfor, State.setAgenda_respStatus,
      statusIsReserved_of_reserved hstatus, if_pos rfl]

/-! ### Another master's accesses -/

/-- At IDLE the pair is free, and a port off the pair is free always (R145). -/
theorem free_of_idle_or_off_pair {p : IoPort} (h : s.phase = .idle ∨ (p ≠ 0xCF8#16 ∧ p ≠ 0xCFC#16)) :
    (s.owned && isPairPort p) = false := by
  rcases h with hidle | ⟨haddr, hdata⟩
  · rw [s.not_owned_iff.2 hidle, Bool.false_and]
  · have hoff : isPairPort p = false := eq_false_of_ne_true fun hpair => (isPairPort_iff.1 hpair).elim haddr hdata
    rw [hoff, Bool.and_false]

/-- Settles O30: a free port's access is its event, a write to 0xCF8 goes to the latch as well. -/
theorem otherMastersAreEvents : Obligations.OtherMastersAreEvents := by
  intro s m p v rest hport
  have hfree : ((s.setAgenda rest).owned && isPairPort p) = false := free_of_idle_or_off_pair hport
  refine ⟨fun hturn => ?_, fun hturn => ?_⟩
  · rw [step_turn hturn, agentStep, otherWrite, hfree, if_neg Bool.false_ne_true]
    rfl
  · rw [step_turn hturn, agentStep, otherRead, hfree, if_neg Bool.false_ne_true]
    rfl

/-! ### Faults -/

/-- A command's transition in a phase of the command goes on (R21). -/
theorem exec_goes_on (hstep : hasStep i s.phase = true) : ∃ t, exec i s = .next t := by
  by_contra hstops
  obtain ⟨-, -, hno⟩ := exec_stops (not_exists.1 hstops)
  exact Bool.false_ne_true (hno.symm.trans hstep)

/-- From a coherent state the block's own step goes on. -/
theorem SequencerCoherent.goes_on (h : SequencerCoherent s) : ∃ t, sequencerStep s = .next t := by
  by_cases hidle : s.phase = .idle
  · exact ⟨s, sequencerStep_idle hidle⟩
  · obtain ⟨i, hdec, hstep, -⟩ := h (s.owned_iff.2 hidle)
    rw [sequencerStep_busy hidle hdec]
    exact exec_goes_on hstep

/-- From a coherent state a request goes on: it is issued, or held while the block goes on (R78). -/
theorem SequencerCoherent.request_goes_on (h : SequencerCoherent s) (r : Nat) (w : CmdWord) (ts : List Turn) :
    ∃ t, requestTurn r w ts s = .next t := by
  by_cases hidle : s.phase = .idle
  · have hafter : (s.setAgenda ts).phase = .idle := hidle
    rw [requestTurn_idle hidle]
    obtain ⟨t, ht, -⟩ := issueStep_records_request hafter r w
    exact ⟨t, ht⟩
  · rw [requestTurn_busy hidle]
    exact h.goes_on

/-- A sound latch that is valid holds no reserved status (R141). -/
theorem ResponseLatchSound.not_reserved (h : ResponseLatchSound s) (hvalid : s.respValid = true) :
    statusIsReserved s.respStatus = false := by
  obtain ⟨-, hlast, hall, -⟩ := h
  have hallowed := hall _ (List.mem_of_getLast? (hlast hvalid))
  simp only [responseAllowed, Bool.or_eq_true, Bool.and_eq_true, beq_iff_eq] at hallowed
  exact statusIsReserved_of_defined (hallowed.imp_right And.left)

/-- From a sound latch a read faults only as R143 says. -/
theorem ResponseLatchSound.readResponse_fault_cases (h : ResponseLatchSound s) {g : RespReg} {x : Fault}
    (hfault : readResponse r g s = .fault x) :
    g ≠ .valid ∧ x = .responseNotValid r ∧ (s.respValid = false ∨ s.issuer ≠ some r) := by
  have hreg : g ≠ .valid := by
    rintro rfl
    rw [readResponse_valid] at hfault
    cases hfault
  cases hfor : s.responseIsFor r with
  | false =>
    rw [readResponse_fault hreg hfor] at hfault
    cases hfault
    exact ⟨hreg, rfl, State.responseIsFor_eq_false_iff.1 hfor⟩
  | true =>
    have hvalid : s.respValid = true := by
      rw [State.responseIsFor, Bool.and_eq_true] at hfor
      exact hfor.1
    rw [readResponse_ready hreg hfor, h.not_reserved hvalid, if_neg Bool.false_ne_true] at hfault
    cases hfault

/-- Another master's write faults only on the pair while it is owned (R145). -/
theorem otherWrite_fault_cases {m : Nat} {p : IoPort} {v : Dword} {x : Fault} (h : otherWrite m p v s = .fault x) :
    s.phase ≠ .idle ∧ (p = 0xCF8#16 ∨ p = 0xCFC#16) ∧ x = .portPairInterleaved ⟨.other m, .write, p, v⟩ := by
  unfold otherWrite at h
  split at h
  · obtain ⟨howned, hpair⟩ := Bool.and_eq_true_iff.1 ‹_›
    cases h
    exact ⟨s.owned_iff.1 howned, isPairPort_iff.1 hpair, rfl⟩
  · cases h

/-- Another master's read faults only on the pair while it is owned (R145). -/
theorem otherRead_fault_cases {m : Nat} {p : IoPort} {x : Fault} (h : otherRead m p s = .fault x) :
    s.phase ≠ .idle ∧ (p = 0xCF8#16 ∨ p = 0xCFC#16) ∧ x = .portPairInterleaved ⟨.other m, .read, p, s.answer p⟩ := by
  unfold otherRead at h
  split at h
  · obtain ⟨howned, hpair⟩ := Bool.and_eq_true_iff.1 ‹_›
    cases h
    exact ⟨s.owned_iff.1 howned, isPairPort_iff.1 hpair, rfl⟩
  · cases h

/-- What goes on does not fault. -/
theorem not_fault_of_goes_on {o : Host.Outcome State Fault Refusal} {x : Fault} (h : ∃ t, o = .next t) : o ≠ .fault x := by
  obtain ⟨t, rfl⟩ := h
  exact nofun

/-- Settles O43: by the turn. The block's steps and requests go on, a reset does, a call out of range is refused and not a
fault, and the three other turns fault as their lemmas say. -/
theorem onlyTheSpecsFaults : Obligations.OnlyTheSpecsFaults := by
  intro s hcoherent hsound x hfault
  cases hturn : s.agenda with
  | nil =>
    rw [step_no_turn hturn] at hfault
    exact absurd hfault (not_fault_of_goes_on hcoherent.goes_on)
  | cons u rest =>
    have hcoherent' : SequencerCoherent (s.setAgenda rest) := hcoherent
    rw [step_turn hturn] at hfault
    cases u with
    | sequencer => exact absurd hfault (not_fault_of_goes_on hcoherent'.goes_on)
    | issue r w => exact absurd hfault (not_fault_of_goes_on (hcoherent.request_goes_on r w rest))
    | call r c =>
      rw [agentStep] at hfault
      split at hfault
      · exact absurd hfault (not_fault_of_goes_on (hcoherent.request_goes_on r _ rest))
      · cases hfault
    | readResponse r g =>
      have hsound' : ResponseLatchSound (s.setAgenda rest) := hsound
      obtain ⟨hreg, hx, hunready⟩ := hsound'.readResponse_fault_cases hfault
      exact .inl ⟨r, g, rest, rfl, hreg, hx, hunready⟩
    | portWrite m p v =>
      obtain ⟨hbusy, hport, hx⟩ := otherWrite_fault_cases hfault
      exact .inr ⟨hbusy, m, p, rest, hport, .inl ⟨v, rfl, hx⟩⟩
    | portRead m p =>
      obtain ⟨hbusy, hport, hx⟩ := otherRead_fault_cases hfault
      exact .inr ⟨hbusy, m, p, rest, hport, .inr ⟨rfl, hx⟩⟩
    | reset => cases hfault

end Sys2Proof.Machine
end

section
/-! The assembler's lines (30_encoding.md rule R77): the word of a line is its command's with the line's very numbers, and a
line out of range is refused by name and line. -/

namespace Sys2Proof.Machine

variable {line : Nat} {text : List Char} {b s f o d : Nat} {row : SyntaxRow}

/-- The line assembles to the word of the call's command, or is refused by an argument out of range (R77). -/
def AssemblesAs (line : Nat) (text : List Char) (c : WideCall) : Prop :=
  ((∀ p ∈ c.arguments, p.2 < p.1.bound) → ∃ i : Instr, i.toCall = c ∧ assembleLine line text = .word (encode i)) ∧
  ((∃ p ∈ c.arguments, p.1.bound ≤ p.2) →
    ∃ arg value, assembleLine line text = .refused (.outOfRange line arg value) ∧
      (arg, value) ∈ c.arguments ∧ arg.bound ≤ value)

/-- One of R77's lines, read by its mnemonic and its numbers, assembles as its call. -/
theorem assemblesAs_row (hrow : row ∈ syntaxRows b s f o d) (hname : mnemonicText text = row.name.toList)
    (hvalues : operandValues (operandText text) = some row.operands) : AssemblesAs line text row.call := by
  obtain ⟨m, n, ns, htable, hcall, -⟩ := syntaxRows_call hrow
  obtain ⟨hmnemonic, -, -⟩ := mnemonicTable_spelling _ htable
  refine ⟨fun hrange => ⟨narrowCall row.call, narrowCall_toCall hrange, ?_⟩, fun hout => ?_⟩
  · simp only [assembleLine, hname, hmnemonic, hvalues, hcall, checkCall_of_inRange hrange]
  · obtain ⟨arg, value, hcheck, hargument⟩ := checkCall_of_outOfRange hout
    refine ⟨arg, value, ?_, hargument⟩
    simp only [assembleLine, hname, hmnemonic, hvalues, hcall, hcheck]

/-- A line that assembles is one of R77's lines, and its word is the command of that line. -/
theorem assembleLine_word {w : CmdWord} (h : assembleLine line text = .word w) :
    ∃ b s f o d : Nat, ∃ row ∈ syntaxRows b s f o d, mnemonicText text = row.name.toList ∧
      operandValues (operandText text) = some row.operands ∧ ∃ i : Instr, i.toCall = row.call ∧ w = encode i := by
  unfold assembleLine at h
  split at h
  · cases h
  next m hmnemonic =>
    split at h
    · cases h
    next values hvalues =>
      split at h
      · cases h
      next c hcall =>
        split at h
        next i hcheck =>
          obtain ⟨row, htable, hname, rfl⟩ := mnemonicOf_some hmnemonic
          obtain ⟨b, s, f, o, d, hrow⟩ := callOf_syntaxRows htable hcall
          obtain ⟨hrange, rfl⟩ := checkCall_inRange hcheck
          cases h
          exact ⟨b, s, f, o, d, _, hrow, hname.symm, hvalues, _, narrowCall_toCall ((WideCall.wellFormed_iff c).1 hrange),
            rfl⟩
        · cases h

/-- A line is refused for its mnemonic, a numeral, the number of its operands, or an operand out of its range. -/
theorem assembleLine_refused {e : AsmError} (h : assembleLine line text = .refused e) :
    e = .unknownMnemonic line ∨ e = .notANumber line ∨ e = .wrongOperandCount line ∨
      ∃ arg value, e = .outOfRange line arg value ∧ arg.bound ≤ value := by
  unfold assembleLine at h
  split at h
  · cases h
    exact .inl rfl
  · split at h
    · cases h
      exact .inr (.inl rfl)
    · split at h
      · cases h
        exact .inr (.inr (.inl rfl))
      · split at h
        · cases h
        next arg value hcheck =>
          cases h
          exact .inr (.inr (.inr ⟨arg, value, rfl, (checkCall_outOfRange hcheck).2⟩))

/-- Settles O5: what a word and a refusal come from, and each of R77's lines as its call. -/
theorem assembledWordsAreLegal : Obligations.AssembledWordsAreLegal := by
  refine fun line text => ⟨fun w h => ?_, fun b s f o d row hrow hname hvalues => assemblesAs_row hrow hname hvalues,
    fun e h => assembleLine_refused h⟩
  obtain ⟨b, s, f, o, d, row, hrow, hname, hvalues, i, hcall, rfl⟩ := assembleLine_word h
  exact ⟨b, s, f, o, d, row, hrow, hname, hvalues, i, hcall, rfl, decode_encode i⟩

/-- Settles O46: the text is cut into the mnemonic and its operands, and each numeral is read as its number. -/
theorem linesAreReadAsWritten : Obligations.LinesAreReadAsWritten := by
  intro line b s f o d row hrow numerals text hnumerals htext
  obtain ⟨m, n, ns, htable, -, hoperands⟩ := syntaxRows_call hrow
  obtain ⟨-, hne, hblank⟩ := mnemonicTable_spelling _ htable
  obtain ⟨hname, hrest⟩ := lineTexts hne hblank (List.intercalate [',', ' '] numerals)
  have hvalues : operandValues (operandText text) = some row.operands := by
    rw [htext, hrest, hoperands]
    exact operandValues_numerals (hoperands ▸ hnumerals)
  exact assemblesAs_row hrow (htext ▸ hname) hvalues

end Sys2Proof.Machine
end

section
/-! Whole commands, from the word at IDLE to the response: READ_WORD and WRITE_WORD (41_transport.md rules R110, R115) and
CHECK_VENDOR (42_probe.md rule R131), which does to the ports what one or two READ_WORDs do. -/

namespace Sys2Proof

variable {w : CmdWord}

/-- A word of READ_WORD's row decodes to READ_WORD with the operands of its fields. -/
theorem decode_readWord_row (h : w &&& 0xFFFFFF000000#48 = 0x000040000000#48) :
    decode w = .legal (.readWord (busField w) (slotField w) (funcField w) (offsetField w)) := by
  obtain ⟨hlegal, hop⟩ := decode_of_row (row := ⟨"READ_WORD", 0xFFFFFF000000#48, 0x000040000000#48⟩) (by decide) h
  rw [hlegal, selectCommand_readWord (hop.trans (by decide))]

/-- A word of WRITE_WORD's row decodes to WRITE_WORD with the operands of its fields. -/
theorem decode_writeWord_row (h : w &&& 0x0000FF000000#48 = 0x000080000000#48) :
    decode w = .legal (.writeWord (busField w) (slotField w) (funcField w) (offsetField w) (dataField w)) := by
  obtain ⟨hlegal, hop⟩ := decode_of_row (row := ⟨"WRITE_WORD", 0x0000FF000000#48, 0x000080000000#48⟩) (by decide) h
  rw [hlegal, selectCommand_writeWord (hop.trans (by decide))]

/-- A word of CHECK_VENDOR's row decodes to CHECK_VENDOR with the bus and slot of its fields. -/
theorem decode_checkVendor_row (h : w &&& 0xFFFFFF0007FF#48 = 0x0000C0000000#48) :
    decode w = .legal (.checkVendor (busField w) (slotField w)) := by
  obtain ⟨hlegal, hop⟩ := decode_of_row (row := ⟨"CHECK_VENDOR", 0xFFFFFF0007FF#48, 0x0000C0000000#48⟩) (by decide) h
  rw [hlegal, selectCommand_checkVendor (hop.trans (by decide))]

/-- The word's offset bit 1 is the offset field's (R72). -/
theorem offsetField_bit_one : (offsetField w).extractLsb' 1 1 = w.extractLsb' 1 1 := by
  apply BitVec.eq_of_getLsbD_eq
  intro k hk
  interval_cases k
  simp [offsetField]

namespace Machine

/-! ### Runs -/

/-- A run goes on with another. -/
theorem runsTo_add {m n : Nat} {s t u : State} (hm : RunsTo m s t) (hn : RunsTo n t u) : RunsTo (m + n) s u := by
  induction m generalizing s with
  | zero =>
    obtain rfl : s = t := Host.Outcome.next.inj hm
    rwa [Nat.zero_add]
  | succ m ih =>
    cases hstep : step s with
    | next v =>
      have hrest : RunsTo m v t := by
        have hcore : Host.Core.step core s = .next v := hstep
        simpa only [RunsTo, Host.Core.run, hcore] using hm
      rw [Nat.succ_add]
      exact runsTo_succ hstep (ih hrest)
    | fault x =>
      have hcore : Host.Core.step core s = .fault x := hstep
      simp [RunsTo, Host.Core.run, hcore] at hm
    | refused x =>
      have hcore : Host.Core.step core s = .refused x := hstep
      simp [RunsTo, Host.Core.run, hcore] at hm

/-! ### The states of a command with port accesses, `addr` its address and `ts` the turns then to come -/

section States

variable (s : State) (r : Nat) (w : CmdWord) (addr : Dword) (ts : List Turn)

/-- After the issue step. -/
def State.atAddr1 : State := ((s.setAgenda ts).latchRequest r w).armAddress addr .addr1

/-- After the first address write. -/
def State.atData1 : State := (s.atAddr1 r w addr ts).writeAddress .data1

/-- After READ_WORD's response. -/
def State.readAnswered (o : Offset) : State :=
  (s.atData1 r w addr ts).readData.complete (widen (halfSelect (s.atData1 r w addr ts).readData.d o))

/-- After WRITE_WORD's response. -/
def State.writeAnswered (d : Word) : State :=
  ((s.atData1 r w addr ts).ioWrite32 .block Config.dataPort (widen d)).complete 0#32

/-- After CHECK_VENDOR's response to an absent device. -/
def State.absentAnswered : State := (s.atData1 r w addr ts).readData.complete 0#32

/-- After CHECK_VENDOR's first read of a present device. -/
def State.atAddr2 : State := (s.atData1 r w addr ts).readData.armAddress addr .addr2

/-- After CHECK_VENDOR's second address write. -/
def State.atData2 : State := (s.atAddr2 r w addr ts).writeAddress .data2

/-- After CHECK_VENDOR's response to a present device. -/
def State.presentAnswered : State :=
  (s.atData2 r w addr ts).readData.complete (0#16 ++ (s.atData2 r w addr ts).readData.d.extractLsb' 16 16)

end States

variable {s : State} {r : Nat} {w : CmdWord} {ts us vs : List Turn} {i : Instr} {b : Bus} {sl : Slot} {f : Func}
  {o : Offset} {d : Word}

/-- A command with port accesses, issued at IDLE, forms its address, and then writes it (R110, R115, R131). -/
theorem command_reaches_data1 (hidle : s.phase = .idle) (hturn : s.agenda = .issue r w :: ts)
    (hdec : decode w = .legal i) (hstep : hasStep i .addr1 = true) (hmoves : BlockMoves ts us) :
    step s = .next (s.atAddr1 r w (commandAddress i) ts) ∧
      step (s.atAddr1 r w (commandAddress i) ts) = .next (s.atData1 r w (commandAddress i) us) := by
  have hlatched : ((s.setAgenda ts).latchRequest r w).phase = .idle := hidle
  refine ⟨?_, ?_⟩
  · rw [step_issue_legal hidle hturn hdec, exec_idle_arms hstep hlatched, State.atAddr1]
  · rw [hmoves.step_eq_exec (s := s.atAddr1 r w _ ts) rfl Phase.noConfusion hdec, exec_addr1 hstep rfl]
    rfl

/-- READ_WORD's run: its word, then two steps of the block (R110). -/
theorem readWord_run (hidle : s.phase = .idle) (hturn : s.agenda = .issue r w :: ts)
    (hdec : decode w = .legal (.readWord b sl f o)) (hmoves : BlockMoves ts us) (hmoves' : BlockMoves us vs) :
    RunsTo 3 s (s.readAnswered r w (configAddress b sl f o) vs o) := by
  obtain ⟨hissue, haddress⟩ := command_reaches_data1 hidle hturn hdec rfl hmoves
  have hdata : step (s.atData1 r w (configAddress b sl f o) us) =
      .next (s.readAnswered r w (configAddress b sl f o) vs o) := by
    rw [hmoves'.step_eq_exec (s := s.atData1 r w _ us) rfl Phase.noConfusion hdec, exec_readWord_data1 rfl]
    rfl
  exact runsTo_succ hissue (runsTo_succ haddress (runsTo_succ hdata runsTo_zero))

/-- WRITE_WORD's run: its word, then two steps of the block (R115). -/
theorem writeWord_run (hidle : s.phase = .idle) (hturn : s.agenda = .issue r w :: ts)
    (hdec : decode w = .legal (.writeWord b sl f o d)) (hmoves : BlockMoves ts us) (hmoves' : BlockMoves us vs) :
    RunsTo 3 s (s.writeAnswered r w (configAddress b sl f o) vs d) := by
  obtain ⟨hissue, haddress⟩ := command_reaches_data1 hidle hturn hdec rfl hmoves
  have hdata : step (s.atData1 r w (configAddress b sl f o) us) =
      .next (s.writeAnswered r w (configAddress b sl f o) vs d) := by
    rw [hmoves'.step_eq_exec (s := s.atData1 r w _ us) rfl Phase.noConfusion hdec, exec_writeWord_data1 rfl]
    rfl
  exact runsTo_succ hissue (runsTo_succ haddress (runsTo_succ hdata runsTo_zero))

/-- Two events at the end of a history, one after the other. -/
theorem append_two (h : List PortEvent) (x y : PortEvent) : h ++ [x, y] = h ++ [x] ++ [y] := List.append_cons h x [y]

/-- Settles O20: the states of READ_WORD's run, their fields written out. -/
theorem readWordRun : Obligations.ReadWordRun := by
  intro s r w rest hidle hturn hw
  have hdec := decode_readWord_row hw
  obtain ⟨hissue, haddress⟩ := command_reaches_data1 hidle hturn hdec rfl blockMoves_sequencer
  refine ⟨_, _, _, rfl, rfl, rfl, runsTo_succ hissue runsTo_zero,
    runsTo_succ hissue (runsTo_succ haddress runsTo_zero), ?_⟩
  rw [hidle, append_two, ← offsetField_bit_one, ← halfSelect_eq_ite, ← widen_eq_append]
  exact readWord_run hidle hturn hdec blockMoves_sequencer blockMoves_sequencer

/-- Settles O21: the states of WRITE_WORD's run, their fields written out. -/
theorem writeWordRun : Obligations.WriteWordRun := by
  intro s r w rest hidle hturn hw
  have hdec := decode_writeWord_row hw
  obtain ⟨hissue, haddress⟩ := command_reaches_data1 hidle hturn hdec rfl blockMoves_sequencer
  refine ⟨_, _, rfl, rfl, runsTo_succ hissue runsTo_zero, runsTo_succ hissue (runsTo_succ haddress runsTo_zero), ?_⟩
  rw [hidle, append_two, ← widen_eq_append]
  exact writeWord_run hidle hturn hdec blockMoves_sequencer blockMoves_sequencer

/-! ### CHECK_VENDOR -/

/-- CHECK_VENDOR's run where the first read answers with the sentinel: three steps (R131). -/
theorem checkVendor_run_absent (hidle : s.phase = .idle) (hturn : s.agenda = [.issue r w])
    (hdec : decode w = .legal (.checkVendor b sl))
    (habsent : (s.atData1 r w (configAddress b sl 0#3 0x00#8) []).readData.d.extractLsb' 0 16 = 0xFFFF#16) :
    RunsTo 3 s (s.absentAnswered r w (configAddress b sl 0#3 0x00#8) []) := by
  obtain ⟨hissue, haddress⟩ := command_reaches_data1 hidle hturn hdec rfl blockMoves_nil
  have hdata : step (s.atData1 r w (configAddress b sl 0#3 0x00#8) []) =
      .next (s.absentAnswered r w (configAddress b sl 0#3 0x00#8) []) := by
    rw [blockMoves_nil.step_eq_exec (s := s.atData1 r w _ []) rfl Phase.noConfusion hdec,
      exec_checkVendor_data1 rfl]
    exact congrArg _ (decidePresence_absent habsent)
  exact runsTo_succ hissue (runsTo_succ haddress (runsTo_succ hdata runsTo_zero))

/-- CHECK_VENDOR's run where the first read answers otherwise: the same address is written again, five steps (R131). -/
theorem checkVendor_run_present (hidle : s.phase = .idle) (hturn : s.agenda = [.issue r w])
    (hdec : decode w = .legal (.checkVendor b sl))
    (hpresent : (s.atData1 r w (configAddress b sl 0#3 0x00#8) []).readData.d.extractLsb' 0 16 ≠ 0xFFFF#16) :
    RunsTo 5 s (s.presentAnswered r w (configAddress b sl 0#3 0x00#8) []) := by
  obtain ⟨hissue, haddress⟩ := command_reaches_data1 hidle hturn hdec rfl blockMoves_nil
  have hdata : step (s.atData1 r w (configAddress b sl 0#3 0x00#8) []) =
      .next (s.atAddr2 r w (configAddress b sl 0#3 0x00#8) []) := by
    rw [blockMoves_nil.step_eq_exec (s := s.atData1 r w _ []) rfl Phase.noConfusion hdec,
      exec_checkVendor_data1 rfl]
    refine congrArg _ ((decidePresence_present hpresent).trans ?_)
    rw [checkVendor_second_address]
    rfl
  have haddress' : step (s.atAddr2 r w (configAddress b sl 0#3 0x00#8) []) =
      .next (s.atData2 r w (configAddress b sl 0#3 0x00#8) []) := by
    rw [blockMoves_nil.step_eq_exec (s := s.atAddr2 r w _ []) rfl Phase.noConfusion hdec,
      exec_checkVendor_addr2 rfl]
    rfl
  have hdata' : step (s.atData2 r w (configAddress b sl 0#3 0x00#8) []) =
      .next (s.presentAnswered r w (configAddress b sl 0#3 0x00#8) []) := by
    rw [blockMoves_nil.step_eq_exec (s := s.atData2 r w _ []) rfl Phase.noConfusion hdec,
      exec_checkVendor_data2 rfl]
    rfl
  exact runsTo_succ hissue (runsTo_succ haddress (runsTo_succ hdata (runsTo_succ haddress' (runsTo_succ hdata' runsTo_zero))))

/-- Three events at the end of a history, one after the other. -/
theorem append_three (h : List PortEvent) (x y z : PortEvent) : h ++ [x, y, z] = h ++ [x] ++ [y] ++ [z] := by
  rw [List.append_cons, append_two]

/-- Four events at the end of a history, one after the other. -/
theorem append_four (h : List PortEvent) (x y z v : PortEvent) :
    h ++ [x, y, z, v] = h ++ [x] ++ [y] ++ [z] ++ [v] := by
  rw [List.append_cons, append_three]

/-- Settles O22: the last states of CHECK_VENDOR's two runs, their fields written out. -/
theorem checkVendorRun : Obligations.CheckVendorRun := by
  intro s r w hidle hturn hw
  have hdec := decode_checkVendor_row hw
  refine ⟨_, _, _, rfl, rfl, rfl, ?_⟩
  rw [hidle, append_two, append_three, append_four]
  split_ifs with hvendor
  · exact checkVendor_run_absent hidle hturn hdec hvendor
  · exact checkVendor_run_present hidle hturn hdec hvendor

/-! ### CHECK_VENDOR and READ_WORD -/

/-- READ_WORD of offset 0x00 answers with 0x0000FFFF exactly when the low half read is the sentinel. -/
theorem widen_vendor_eq_iff (v : Dword) : widen (halfSelect v 0x00#8) = 0x0000FFFF#32 ↔ v.extractLsb' 0 16 = 0xFFFF#16 := by
  rw [widen_eq_append, halfSelect_eq_ite]
  exact (append_eq_append_iff (x := 0#16) (x' := 0#16) (y' := 0xFFFF#16)).trans (and_iff_right rfl)

/-- READ_WORD of offset 0x02 answers with the upper half read. -/
theorem widen_device (v : Dword) : widen (halfSelect v 0x02#8) = 0#16 ++ v.extractLsb' 16 16 := by
  rw [widen_eq_append, halfSelect_eq_ite]
  rfl

/-- The two READ_WORDs of R131 run one after the other, the second issue held meanwhile; both have the same address. -/
theorem two_reads_run (hidle : s.phase = .idle) {first second : CmdWord}
    (hfirst : decode first = .legal (.readWord b sl 0#3 0x00#8))
    (hsecond : decode second = .legal (.readWord b sl 0#3 0x02#8)) :
    RunsTo 3 (s.setAgenda [.issue r first, .issue r second])
        (s.readAnswered r first (configAddress b sl 0#3 0x00#8) [.issue r second] 0x00#8) ∧
      RunsTo 3 (s.readAnswered r first (configAddress b sl 0#3 0x00#8) [.issue r second] 0x00#8)
        ((s.readAnswered r first (configAddress b sl 0#3 0x00#8) [.issue r second] 0x00#8).readAnswered r second
          (configAddress b sl 0#3 0x00#8) [] 0x02#8) := by
  refine ⟨readWord_run hidle rfl hfirst blockMoves_issue blockMoves_issue, ?_⟩
  have haddress : configAddress b sl 0#3 0x02#8 = configAddress b sl 0#3 0x00#8 := checkVendor_second_address b sl
  rw [← haddress]
  exact readWord_run rfl rfl hsecond blockMoves_nil blockMoves_nil

/-- Two states between which no access to the ports tells: the history, the latch, the draws, A and D agree. -/
structure SameAccesses (s t : State) : Prop where
  history : s.history = t.history
  latch : s.addressLatch = t.addressLatch
  draws : s.draws = t.draws
  a : s.a = t.a
  d : s.d = t.d

namespace SameAccesses

variable {t : State} (h : SameAccesses s t)
include h

/-- An address formed in both, in one of them by an issue step. -/
theorem armAddress (addr : Dword) (p : Phase) : SameAccesses (s.armAddress addr p) (t.atAddr1 r w addr ts) :=
  ⟨h.history, h.latch, h.draws, rfl, h.d⟩

/-- The address written in both. -/
theorem writeAddress (p q : Phase) : SameAccesses (s.writeAddress p) (t.writeAddress q) := by
  refine ⟨?_, h.a, h.draws, h.a, h.d⟩
  simp only [State.writeAddress_eq, State.goto_history, State.ioWrite32_history, h.history, h.a]

/-- The data port read in both: the answers are the same (log entry 3). -/
theorem readData : SameAccesses s.readData t.readData := by
  have hanswer : s.answer Config.dataPort = t.answer Config.dataPort := by
    rw [State.answer, State.answer, h.draws, h.latch, h.history]
  refine ⟨?_, h.latch, congrArg (· + 1) h.draws, h.a, hanswer⟩
  simp only [State.readData_eq, State.setD_history, State.recordRead_history, h.history, hanswer]

/-- A response in both. -/
theorem complete (v v' : Dword) : SameAccesses (s.complete v) (t.complete v') :=
  ⟨h.history, h.latch, h.draws, h.a, h.d⟩

/-- A response in the second alone. -/
theorem complete_right (v : Dword) : SameAccesses s (t.complete v) := ⟨h.history, h.latch, h.draws, h.a, h.d⟩

end SameAccesses

/-- After the first address write, the word issued and the turns to come make no difference to the ports. -/
theorem atData1_sameAccesses (s : State) (r r' : Nat) (w w' : CmdWord) (addr : Dword) (ts ts' : List Turn) :
    SameAccesses (s.atData1 r w addr ts) (s.atData1 r' w' addr ts') :=
  SameAccesses.writeAddress (s := s.atAddr1 r w addr ts) (t := s.atAddr1 r' w' addr ts') ⟨rfl, rfl, rfl, rfl, rfl⟩ _ _

/-- An absent device's probe makes the accesses of one READ_WORD. -/
theorem absentAnswered_sameAccesses (s : State) (r : Nat) (w w' : CmdWord) (addr : Dword) (ts ts' : List Turn)
    (o : Offset) : SameAccesses (s.absentAnswered r w addr ts) (s.readAnswered r w' addr ts' o) :=
  (atData1_sameAccesses s r r w w' addr ts ts').readData.complete _ _

/-- A present device's probe makes the accesses of two READ_WORDs. -/
theorem presentAnswered_sameAccesses (s : State) (r : Nat) (w first second : CmdWord) (addr : Dword)
    (ts us vs : List Turn) (o o' : Offset) :
    SameAccesses (s.presentAnswered r w addr ts)
      ((s.readAnswered r first addr us o).readAnswered r second addr vs o') :=
  have hread : SameAccesses (s.atData1 r w addr ts).readData (s.readAnswered r first addr us o) :=
    (atData1_sameAccesses s r r w first addr ts us).readData.complete_right _
  (((hread.armAddress addr .addr2).writeAddress .data2 .data1).readData).complete _ _

/-- READ_WORD answers with the half of D at its offset (R110). -/
theorem readAnswered_respValue (s : State) (r : Nat) (w : CmdWord) (addr : Dword) (ts : List Turn) (o : Offset) :
    (s.readAnswered r w addr ts o).respValue = widen (halfSelect (s.readAnswered r w addr ts o).d o) := rfl

/-- The first READ_WORD answers 0x0000FFFF exactly when the probe's first read is the sentinel. -/
theorem readAnswered_eq_sentinel_iff (s : State) (r : Nat) (w first : CmdWord) (addr : Dword) (ts us : List Turn) :
    (s.readAnswered r first addr us 0x00#8).respValue = 0x0000FFFF#32 ↔
      (s.atData1 r w addr ts).readData.d.extractLsb' 0 16 = 0xFFFF#16 := by
  have hd : (s.atData1 r w addr ts).readData.d = (s.readAnswered r first addr us 0x00#8).d :=
    (atData1_sameAccesses s r r w first addr ts us).readData.d
  rw [readAnswered_respValue, widen_vendor_eq_iff, hd]

/-- A present device's probe gives the answer of the second READ_WORD. -/
theorem presentAnswered_respValue (s : State) (r : Nat) (w first second : CmdWord) (addr : Dword)
    (ts us vs : List Turn) (o : Offset) :
    (s.presentAnswered r w addr ts).respValue =
      ((s.readAnswered r first addr us o).readAnswered r second addr vs 0x02#8).respValue := by
  have hvalue : (s.presentAnswered r w addr ts).respValue = 0#16 ++ (s.presentAnswered r w addr ts).d.extractLsb' 16 16 := rfl
  rw [readAnswered_respValue, widen_device, hvalue, (presentAnswered_sameAccesses s r w first second addr ts us vs o _).d]

/-- Settles O23: the probe and the READ_WORDs make the same accesses, so the same answers decide and are given. -/
theorem checkVendorIsTwoReads : Obligations.CheckVendorIsTwoReads := by
  intro s r b sl hidle
  have hprobe := decode_encode (.checkVendor b sl)
  have hfirst := decode_encode (.readWord b sl 0#3 0x00#8)
  have hsecond := decode_encode (.readWord b sl 0#3 0x02#8)
  generalize encode (.checkVendor b sl) = probe at hprobe ⊢
  generalize encode (.readWord b sl 0#3 0x00#8) = first at hfirst ⊢
  generalize encode (.readWord b sl 0#3 0x02#8) = second at hsecond ⊢
  have hidle' : (s.setAgenda [.issue r probe]).phase = .idle := hidle
  obtain ⟨hread, hread'⟩ := two_reads_run (r := r) hidle hfirst hsecond
  have hsentinel := readAnswered_eq_sentinel_iff s r probe first (configAddress b sl 0#3 0x00#8) [] [.issue r second]
  have hok : statusOk = ((s.readAnswered r first (configAddress b sl 0#3 0x00#8) [.issue r second] 0x00#8).readAnswered r
      second (configAddress b sl 0#3 0x00#8) [] 0x02#8).respStatus := rfl
  by_cases hvendor : (s.atData1 r probe (configAddress b sl 0#3 0x00#8) []).readData.d.extractLsb' 0 16 = 0xFFFF#16
  · have hrun := runsTo_add (checkVendor_run_absent hidle' rfl hprobe hvendor) (runsTo_self_of_idle rfl rfl 2)
    refine ⟨_, _, _, hrun, hread, hread', rfl, rfl, rfl, rfl, rfl, rfl, Eq.trans rfl hok, ?_⟩
    rw [if_pos (hsentinel.2 hvendor)]
    obtain ⟨hhistory, hlatch, hdraws, ha, hd⟩ := absentAnswered_sameAccesses s r probe first
      (configAddress b sl 0#3 0x00#8) [] [.issue r second] 0x00#8
    exact ⟨hhistory, hlatch, hdraws, ha, hd, rfl⟩
  · have hrun := checkVendor_run_present hidle' rfl hprobe hvendor
    refine ⟨_, _, _, hrun, hread, hread', rfl, rfl, rfl, rfl, rfl, rfl, Eq.trans rfl hok, ?_⟩
    rw [if_neg (hsentinel.not.2 hvendor)]
    obtain ⟨hhistory, hlatch, hdraws, ha, hd⟩ := presentAnswered_sameAccesses s r probe first second
      (configAddress b sl 0#3 0x00#8) [] [.issue r second] [] 0x00#8 0x02#8
    exact ⟨hhistory, hlatch, hdraws, ha, hd, presentAnswered_respValue s r probe first second _ _ _ _ _⟩

end Machine

end Sys2Proof
end

section
/-! Every command is answered (70_reset_and_hazards.md rule R171): a command in progress within four steps of the block, a
held request after it, and a queue of words in its order, each within five steps (30_encoding.md rule R78). -/

namespace Sys2Proof.Machine

variable {s t u : State} {i : Instr} {r : Nat} {w : CmdWord} {ts : List Turn}

/-! ### A command in progress -/

/-- The steps of the block that a command still has at most, by its phase (R171). -/
def stepsLeft : Phase → Nat
  | .idle => 0
  | .addr1 => 4
  | .data1 => 3
  | .addr2 => 2
  | .data2 => 1

/-- No command has more than four steps after its issue (R171). -/
theorem stepsLeft_le_four (p : Phase) : stepsLeft p ≤ 4 := by cases p <;> decide

/-- A busy command's transition brings it nearer to its end. -/
theorem exec_stepsLeft_lt (hbusy : s.phase ≠ .idle) (h : exec i s = .next t) : stepsLeft t.phase < stepsLeft s.phase := by
  rcases exec_next h with ⟨hidle, -⟩ | ⟨hidle, -⟩ | ⟨hphase, rfl, -⟩ | ⟨hphase, rfl, -⟩ | ⟨hphase, v, rfl⟩ |
    ⟨hphase, v, rfl⟩ | ⟨hphase, b, sl, -, rfl⟩
  · exact absurd hidle hbusy
  · exact absurd hidle hbusy
  · simp [stepsLeft, hphase]
  · simp [stepsLeft, hphase]
  · rcases hphase with hphase | hphase <;> simp [stepsLeft, hphase]
  · simp [stepsLeft, hphase]
  · simp [stepsLeft, hphase]

/-- From `s` to `t` the command in REQ ends at IDLE with one OK response, its request and the turns to come unchanged. -/
def Completes (s t : State) : Prop :=
  t.phase = .idle ∧ AnswersOk s t ∧ t.req = s.req ∧ t.issuer = s.issuer ∧ t.agenda = s.agenda

/-- A step that answers nothing and keeps the request leaves the same completion to come. -/
theorem Completes.of_step (hkeeps : KeepsResponse s u) (hreq : u.req = s.req) (hissuer : u.issuer = s.issuer)
    (hagenda : u.agenda = s.agenda) (h : Completes u t) : Completes s t := by
  obtain ⟨hidle, ⟨hvalid, hstatus, hresponses⟩, hreq', hissuer', hagenda'⟩ := h
  obtain ⟨hsame, -⟩ := hkeeps
  exact ⟨hidle, ⟨hvalid, hstatus, hsame ▸ hresponses⟩, hreq'.trans hreq, hissuer'.trans hissuer, hagenda'.trans hagenda⟩

/-- A coherent busy block steps on, where only the block moves: nearer to its end, coherent, the request kept, and with an
answer exactly if it reaches IDLE. -/
theorem busy_step (hmoves : BlockMoves s.agenda s.agenda) (hcoherent : SequencerCoherent s) (hbusy : s.phase ≠ .idle) :
    ∃ u, step s = .next u ∧ stepsLeft u.phase < stepsLeft s.phase ∧ SequencerCoherent u ∧
      (u.req = s.req ∧ u.issuer = s.issuer ∧ u.agenda = s.agenda) ∧
      ((u.phase = .idle ∧ AnswersOk s u) ∨ (u.phase ≠ .idle ∧ KeepsResponse s u)) := by
  obtain ⟨i, hdec, hphase, -⟩ := hcoherent (s.owned_iff.2 hbusy)
  obtain ⟨u, hexec⟩ := exec_goes_on hphase
  obtain ⟨hreq, hissuer⟩ := exec_keeps_request hexec
  exact ⟨u, (hmoves.step_eq_exec rfl hbusy hdec).trans hexec, exec_stepsLeft_lt hbusy hexec,
    exec_coherent hcoherent hdec hexec, ⟨hreq, hissuer, exec_keeps_agenda hexec⟩, exec_answers hexec⟩

/-- A coherent busy block completes its command within the steps that its phase leaves, while only the block moves. -/
theorem command_completes {k : Nat} (hleft : stepsLeft s.phase ≤ k) (hmoves : BlockMoves s.agenda s.agenda)
    (hcoherent : SequencerCoherent s) (hbusy : s.phase ≠ .idle) : ∃ n t, n ≤ k ∧ RunsTo n s t ∧ Completes s t := by
  induction k generalizing s with
  | zero =>
    obtain ⟨u, -, hlt, -⟩ := busy_step hmoves hcoherent hbusy
    omega
  | succ k ih =>
    obtain ⟨u, hstep, hlt, hcoherent', ⟨hreq, hissuer, hagenda⟩, ⟨hidle, hanswer⟩ | ⟨hbusy', hkeeps⟩⟩ :=
      busy_step hmoves hcoherent hbusy
    · exact ⟨1, u, by omega, runsTo_succ hstep runsTo_zero, hidle, hanswer, hreq, hissuer, hagenda⟩
    · obtain ⟨n, t, hn, hrun, hdone⟩ := ih (by omega) (hagenda.symm ▸ hmoves) hcoherent' hbusy'
      exact ⟨n + 1, t, by omega, runsTo_succ hstep hrun, hdone.of_step hkeeps hreq hissuer hagenda⟩

/-- A coherent busy block completes its command within four steps, while only the block moves (R171). -/
theorem command_completes_within_four (hmoves : BlockMoves s.agenda s.agenda) (hcoherent : SequencerCoherent s)
    (hbusy : s.phase ≠ .idle) : ∃ n t, n ≤ 4 ∧ RunsTo n s t ∧ Completes s t :=
  command_completes (stepsLeft_le_four s.phase) hmoves hcoherent hbusy

/-- Settles O44: where no turn is planned only the block moves. -/
theorem commandsComplete : Obligations.CommandsComplete := by
  intro s hcoherent hbusy hturn
  have hmoves : BlockMoves s.agenda s.agenda := by
    rw [hturn]
    exact blockMoves_nil
  obtain ⟨n, t, hn, hrun, hidle, ⟨hvalid, hstatus, hresponses⟩, -⟩ := command_completes_within_four hmoves hcoherent hbusy
  exact ⟨n, t, hn, hrun, hidle, hvalid, hstatus, hresponses⟩

/-! ### A call that holds -/

/-- At IDLE a call in range is the issue of the command with its numbers (R144). -/
theorem step_call_eq_step_issue {c : WideCall} (hidle : s.phase = .idle) (hturn : s.agenda = .call r c :: ts)
    (hrange : ∀ p ∈ c.arguments, p.2 < p.1.bound) :
    step s = step { s with agenda := .issue r (encode (narrowCall c)) :: ts } := by
  have hissue : step { s with agenda := .issue r (encode (narrowCall c)) :: ts } =
      issueStep r (encode (narrowCall c)) (s.setAgenda ts) := step_issue_idle rfl hidle
  rw [step_call_inRange hturn hrange, requestTurn_idle hidle, hissue]

/-- Settles O47: a call in range is a held turn, so the command in progress completes before it, and it is then issued. -/
theorem wideCallsHoldWhileBusy : Obligations.WideCallsHoldWhileBusy := by
  intro s r c rest hbusy hturn hrange
  have hmoves : BlockMoves (.call r c :: rest) (.call r c :: rest) := blockMoves_call hrange
  obtain ⟨hsame, hkeeps⟩ := hmoves.holds hturn hbusy
  refine ⟨hsame, hkeeps, fun hcoherent => ?_⟩
  obtain ⟨n, u, hn, hrun, hidle, ⟨hvalid, -, hresponses⟩, hreq, hissuer, hagenda⟩ :=
    command_completes_within_four (hturn ▸ hmoves) hcoherent hbusy
  exact ⟨n, u, narrowCall c, hn, hrun, hidle, hagenda, hreq, hissuer, hvalid, hresponses, narrowCall_toCall hrange,
    step_call_eq_step_issue hidle (hagenda.trans hturn) hrange⟩

/-! ### One word of a queue -/

/-- From `s` to `t` the word is answered: REQ is the word and the issuer its requester, its response is in the latch and the
last of the responses, OK for a legal word and (1, 0) for an illegal one, and the turns `ts` are to come. -/
def AnswersWord (r : Nat) (w : CmdWord) (ts : List Turn) (s t : State) : Prop :=
  t.phase = .idle ∧ t.req = w ∧ t.issuer = some r ∧ t.respValid = true ∧
    t.responses = s.responses ++ [⟨t.respStatus, t.respValue⟩] ∧ t.agenda = ts ∧
    (∀ i, decode w = .legal i → t.respStatus = 0#2) ∧
    (∀ why, decode w = .illegal why → t.respStatus = 1#2 ∧ t.respValue = 0#32)

/-- The OK response to a legal word answers it. -/
theorem answersWord_of_legal (hdec : decode w = .legal i) (hidle : t.phase = .idle) (hanswer : AnswersOk s t)
    (hreq : t.req = w) (hissuer : t.issuer = some r) (hagenda : t.agenda = ts) : AnswersWord r w ts s t := by
  obtain ⟨hvalid, hstatus, hresponses⟩ := hanswer
  rw [← hstatus] at hresponses
  refine ⟨hidle, hreq, hissuer, hvalid, hresponses, hagenda, fun _ _ => hstatus, fun why hwhy => ?_⟩
  rw [hdec] at hwhy
  cases hwhy

/-- A word issued at IDLE is answered within five steps, its issue step among them, while only the block moves after it. -/
theorem word_answered (hidle : s.phase = .idle) (hturn : s.agenda = .issue r w :: ts) (hmoves : BlockMoves ts ts) :
    ∃ n t, n ≤ 5 ∧ RunsTo n s t ∧ AnswersWord r w ts s t := by
  cases hdec : decode w with
  | illegal why =>
    have hstep : step s = .next ((s.setAgenda ts).latchRequest r w).respondIllegal := by
      rw [step_issue_idle hturn hidle, issueStep_illegal hdec]
    refine ⟨1, _, by omega, runsTo_succ hstep runsTo_zero, rfl, rfl, rfl, rfl, rfl, rfl, fun i hi => ?_,
      fun _ _ => ⟨rfl, rfl⟩⟩
    rw [hdec] at hi
    cases hi
  | legal i =>
    have hlatched : ((s.setAgenda ts).latchRequest r w).phase = .idle := hidle
    obtain ⟨u, hexec⟩ := exec_idle_goes_on hlatched i
    have hstep : step s = .next u := (step_issue_legal hidle hturn hdec).trans hexec
    have hcoherent : SequencerCoherent u := exec_coherent (sequencerCoherent_of_idle hlatched) hdec hexec
    obtain ⟨hreq, hissuer⟩ := exec_keeps_request hexec
    have hagenda : u.agenda = ts := exec_keeps_agenda hexec
    rcases exec_answers hexec with ⟨hidle', hanswer⟩ | ⟨hbusy, hsame, -⟩
    · exact ⟨1, u, by omega, runsTo_succ hstep runsTo_zero,
        answersWord_of_legal hdec hidle' hanswer hreq hissuer hagenda⟩
    · obtain ⟨n, t, hn, hrun, hidle', ⟨hvalid, hstatus, hresponses⟩, hreq', hissuer', hagenda'⟩ :=
        command_completes_within_four (hagenda.symm ▸ hmoves) hcoherent hbusy
      exact ⟨n + 1, t, by omega, runsTo_succ hstep hrun, answersWord_of_legal hdec hidle'
        ⟨hvalid, hstatus, hresponses.trans (congrArg (· ++ _) hsame)⟩ (hreq'.trans hreq) (hissuer'.trans hissuer)
        (hagenda'.trans hagenda)⟩

/-! ### A queue of words -/

/-- The turns that issue the words of a queue. -/
def issues (queue : List (Nat × CmdWord)) : List Turn := queue.map fun q => .issue q.1 q.2

/-- With a queue to come a busy block moves, and the queue holds (R78). -/
theorem blockMoves_issues (queue : List (Nat × CmdWord)) : BlockMoves (issues queue) (issues queue) := by
  cases queue with
  | nil => exact blockMoves_nil
  | cons q queue => exact blockMoves_issue

/-- In a run of `n` steps from `s` each word of the queue has its moment, within `c` steps and five for each word up to it:
the responses are then those before the queue and the queue's up to this word, whose response is in the latch. -/
def WordsAnswered (queue : List (Nat × CmdWord)) (before answers : List Response) (c n : Nat) (s : State) : Prop :=
  ∀ (k r : Nat) (w : CmdWord), queue[k]? = some (r, w) →
    ∃ (m : Nat) (u : State), m ≤ n ∧ m ≤ c + 5 * (k + 1) ∧ RunsTo m s u ∧ u.phase = .idle ∧ u.req = w ∧
      u.issuer = some r ∧ u.respValid = true ∧ u.responses = before ++ answers.take (k + 1) ∧
      u.agenda = issues (queue.drop (k + 1)) ∧ answers[k]? = some ⟨u.respStatus, u.respValue⟩ ∧
      (∀ i, decode w = .legal i → u.respStatus = 0#2) ∧
      (∀ why, decode w = .illegal why → u.respStatus = 1#2 ∧ u.respValue = 0#32)

/-- A run before the queue's moves the moments of its words by its steps. -/
theorem WordsAnswered.of_run {queue : List (Nat × CmdWord)} {before answers : List Response} {c c' n j : Nat}
    (hrun : RunsTo j s u) (hj : j + c ≤ c') (h : WordsAnswered queue before answers c n u) :
    WordsAnswered queue before answers c' (j + n) s := by
  intro k r w hk
  obtain ⟨m, v, hmn, hmc, hm, hrest⟩ := h k r w hk
  exact ⟨j + m, v, by omega, by omega, runsTo_add hrun hm, hrest⟩

/-- A queue is answered when its first word is, within five steps, and the rest of it from there. -/
theorem WordsAnswered.cons {queue : List (Nat × CmdWord)} {answers : List Response} {j n : Nat} (hrun : RunsTo j s u)
    (hj : j ≤ 5) (hword : AnswersWord r w (issues queue) s u)
    (h : WordsAnswered queue u.responses answers 0 n u) :
    WordsAnswered ((r, w) :: queue) s.responses (⟨u.respStatus, u.respValue⟩ :: answers) 0 (j + n) s := by
  obtain ⟨hidle, hreq, hissuer, hvalid, hresponses, hagenda, hlegal, hillegal⟩ := hword
  intro k r' w' hk
  cases k with
  | zero =>
    obtain ⟨rfl, rfl⟩ : r = r' ∧ w = w' := by simpa using hk
    exact ⟨j, u, by omega, by omega, hrun, hidle, hreq, hissuer, hvalid, hresponses, hagenda, rfl, hlegal, hillegal⟩
  | succ k =>
    obtain ⟨m, v, hmn, hmc, hm, hidle', hreq', hissuer', hvalid', hresponses', hrest⟩ := h k r' w' hk
    refine ⟨j + m, v, by omega, by omega, runsTo_add hrun hm, hidle', hreq', hissuer', hvalid', ?_, hrest⟩
    rw [hresponses', hresponses, List.append_assoc]
    rfl

/-- From IDLE a queue of words is answered in its order, within five steps a word. -/
theorem queue_answered_from_idle {queue : List (Nat × CmdWord)} (hidle : s.phase = .idle)
    (hturns : s.agenda = issues queue) :
    ∃ (n : Nat) (t : State) (answers : List Response), n ≤ 5 * queue.length ∧ RunsTo n s t ∧ t.phase = .idle ∧
      t.agenda = [] ∧ t.responses = s.responses ++ answers ∧ answers.length = queue.length ∧
      WordsAnswered queue s.responses answers 0 n s := by
  induction queue generalizing s with
  | nil =>
    exact ⟨0, s, [], by omega, runsTo_zero, hidle, hturns, (List.append_nil _).symm, rfl, fun k r w hk => by simp at hk⟩
  | cons q queue ih =>
    obtain ⟨r, w⟩ := q
    obtain ⟨j, u, hj, hrun, hword⟩ := word_answered hidle hturns (blockMoves_issues queue)
    obtain ⟨hidle', -, -, -, hresponses, hagenda, -⟩ := id hword
    obtain ⟨n, t, answers, hn, hrun', hidle'', hagenda', hresponses', hlength, hwords⟩ := ih hidle' hagenda
    refine ⟨j + n, t, ⟨u.respStatus, u.respValue⟩ :: answers, ?_, runsTo_add hrun hrun', hidle'', hagenda', ?_, ?_,
      hwords.cons hrun hj hword⟩
    · rw [List.length_cons]
      omega
    · rw [hresponses', hresponses, List.append_assoc]
      rfl
    · rw [List.length_cons, List.length_cons, hlength]

/-- Settles O45: from IDLE the queue is answered as it stands, and before it a command in progress completes. -/
theorem everyQueuedCommandIsAnswered : Obligations.EveryQueuedCommandIsAnswered := by
  intro queue s hcoherent hturns
  by_cases hidle : s.phase = .idle
  · obtain ⟨n, t, answers, hn, hrun, hidle', hagenda, hresponses, hlength, hwords⟩ :=
      queue_answered_from_idle hidle hturns
    refine ⟨0 + n, t, [], answers, by omega, runsTo_add runsTo_zero hrun, hidle', hagenda, ?_, ?_, hlength, ?_⟩
    · rw [List.append_nil, hresponses]
    · rw [s.not_owned_iff.2 hidle]
      rfl
    · rw [List.append_nil]
      exact hwords.of_run runsTo_zero (by omega)
  · have hmoves : BlockMoves s.agenda s.agenda := by
      rw [hturns]
      exact blockMoves_issues queue
    obtain ⟨j, u, hj, hrun, hidle', ⟨-, -, hfirst⟩, -, -, hagenda⟩ :=
      command_completes_within_four hmoves hcoherent hidle
    obtain ⟨n, t, answers, hn, hrun', hidle'', hagenda', hresponses, hlength, hwords⟩ :=
      queue_answered_from_idle hidle' (hagenda.trans hturns)
    refine ⟨j + n, t, [⟨statusOk, u.respValue⟩], answers, by omega, runsTo_add hrun hrun', hidle'', hagenda', ?_, ?_,
      hlength, ?_⟩
    · rw [hresponses, hfirst]
    · rw [s.owned_iff.2 hidle]
      rfl
    · rw [← hfirst]
      exact hwords.of_run hrun (by omega)

end Sys2Proof.Machine
end
